-- ==== Sys2Proof/Word.lean ====
section
/-! DEFINITION. The widths of the block's values (00_scope.md rules R6, R7, R8, R12): every value is
unsigned, and nothing here is signed. -/

namespace Sys2Proof

/-- A register of the window, and the word of one host access (R20, R71). -/
abbrev Word := BitVec 32

/-- One output byte, one colour channel, one grey value (R6, R36). -/
abbrev Byte := BitVec 8

/-- A width, a height, a row count or one axis of a pixel coordinate (R7, R8). -/
abbrev Half := BitVec 16

/-- A physical pixel coordinate (x, y): x the column, y the row (R13). -/
abbrev Coord := Half × Half

end Sys2Proof
end

