-- ==== Sys2Proof/Config.lean ====
section
/-! DEFINITION. The named parameters the spec leaves OPEN (92_eei_decisions.md D2, D17, D31): GRAY,
SRC and REG_BASE. Each is opaque: no proof can use a value of one, so a statement holds for all. -/

namespace Sys2Proof

/-- One pixel's colour, four 8-bit channels (00_scope.md R6, R15). -/
structure Color where
  r : Byte
  g : Byte
  b : Byte
  a : Byte
  deriving DecidableEq, Repr, Inhabited

/-- What the pixel source answers to one PixelRead (R10, R61). -/
inductive PixelAnswer where
  | ok (c : Color)
  | fail
  deriving DecidableEq, Repr, Inhabited

/-- GRAY, the grey value of a colour: a total function of the four channels and nothing more is
assumed of it (R9, R197). Log entry 6. -/
opaque Config.gray : Color → Byte

/-- SRC's answer to the n-th read ever made, at physical (x, y), where no answer was laid down in
State.pixels: a fresh draw per read (R10, R61). Log entry 2. -/
opaque Config.sourceAnswer : Nat → Half → Half → PixelAnswer

/-- REG_BASE, where a platform puts the register window (20_memory.md R74). Log entry 7. -/
opaque Config.regBase : Nat

/-- The host address of a window offset (R74). Every rule of the block uses the offset alone. -/
def Config.regAddress (offset : Byte) : Nat := Config.regBase + offset.toNat

end Sys2Proof
end

