-- ==== Sys2Proof/Syntax.lean ====
section
/-! DEFINITION. The instructions: one constructor per row of spec/opcode_table.json, over the four
word formats of 30_encoding.md rule R90 (HBUS, CFGW, PBUS, PHASE). -/

namespace Sys2Proof

/-- The four kinds of word the block decodes (R90). -/
inductive Format where
  | hbus
  | cfgw
  | pbus
  | phase
  deriving DecidableEq, Repr

/-- The fields of a CFGW word (R92 to R95, R102). Bits [15:8] are reserved, hold 0, and are no
field. -/
structure CfgFields where
  fmt : BitVec 3
  hdrw : BitVec 1
  orient : BitVec 2
  rle : BitVec 1
  mono : BitVec 1
  rows : Half
  deriving DecidableEq, Repr

/-- What decoding reads beside the word: the latched RLE bit, which says whether PUSH and FINISH
are raw or RLE (R98), and the latched height, which the two 1BIT conditions need (R96, R97). -/
structure SelectCtx where
  rle : BitVec 1
  h : Half
  deriving DecidableEq, Repr

/-- The six session operations of R96. -/
inductive SessionOp where
  | enc1Bit
  | enc4Bit
  | enc8Bit
  | enc8BitCol
  | encRgb565
  | encArgb4444
  deriving DecidableEq, Repr

/-- One constructor per row of the opcode table. A CFGW row carries the whole word's fields;
WellFormed says which words are the row's. -/
inductive Instr where
  -- HBUS (43_host_interface.md; START is 41_session.md R150)
  | wrCfg (data : Word)
  | wrDim (data : Word)
  | wrCtrl (data : Word)
  | start (data : Word)
  | wrStatus (data : Word)
  | wrErrxy (data : Word)
  | wrNone (addr : Byte) (data : Word)
  | rdCfg
  | rdDim
  | rdCtrl
  | rdStatus
  | rdErrxy
  | rdNone (addr : Byte)
  -- CFGW, the session operations (R96; 42_pixel_formats.md)
  | enc1Bit (f : CfgFields)
  | enc4Bit (f : CfgFields)
  | enc8Bit (f : CfgFields)
  | enc8BitCol (f : CfgFields)
  | encRgb565 (f : CfgFields)
  | encArgb4444 (f : CfgFields)
  -- CFGW, the illegal words (R97; 60_exceptions.md R240, R241)
  | invalidFmt5 (f : CfgFields)
  | invalidFmt67 (f : CfgFields)
  | invalidOrient (f : CfgFields)
  | invalid270Bit1 (f : CfgFields)
  | invalid270Bit4 (f : CfgFields)
  | invalid270Rgb565 (f : CfgFields)
  | invalid270Argb4444 (f : CfgFields)
  | invalidRows0 (f : CfgFields)
  | invalidRowsDiv (f : CfgFields)
  -- PBUS (40_byte_producer.md)
  | idle
  | append (b : Byte)
  | pushRaw (b : Byte)
  | pushRle (b : Byte)
  | finishRaw
  | finishRle
  -- PHASE (41_session.md)
  | stepHdr
  | stepUnit
  | stepFin
  deriving DecidableEq, Repr

/-- The format of an instruction's word (R90). -/
def Instr.format : Instr → Format
  | .wrCfg _ | .wrDim _ | .wrCtrl _ | .start _ | .wrStatus _ | .wrErrxy _ | .wrNone _ _
  | .rdCfg | .rdDim | .rdCtrl | .rdStatus | .rdErrxy | .rdNone _ => .hbus
  | .enc1Bit _ | .enc4Bit _ | .enc8Bit _ | .enc8BitCol _ | .encRgb565 _ | .encArgb4444 _
  | .invalidFmt5 _ | .invalidFmt67 _ | .invalidOrient _ | .invalid270Bit1 _ | .invalid270Bit4 _
  | .invalid270Rgb565 _ | .invalid270Argb4444 _ | .invalidRows0 _ | .invalidRowsDiv _ => .cfgw
  | .idle | .append _ | .pushRaw _ | .pushRle _ | .finishRaw | .finishRle => .pbus
  | .stepHdr | .stepUnit | .stepFin => .phase

end Sys2Proof
end

