-- ==== Sys2Proof/WellFormed.lean ====
section
/-! DEFINITION. Which instruction terms are words of the block: the conditions a table row puts on
its word, beside the row's format (30_encoding.md R96 to R99; 43_host_interface.md R220). -/

namespace Sys2Proof

/-- The five offsets that hold a register (10_state.md R20; 20_memory.md R74). -/
def mappedOffsets : List Byte := [0x00#8, 0x04#8, 0x08#8, 0x0C#8, 0x10#8]

/-- ORIENT = 0x: 0° or 180° (R94, R96). -/
def CfgFields.upright (f : CfgFields) : Bool := f.orient == 0#2 || f.orient == 1#2

/-- The instruction is the one its word selects, in a context that fixes the latched RLE bit and
the latched height. -/
def Instr.wellFormed (c : SelectCtx) : Instr → Bool
  | .wrCfg _ => true
  | .wrDim _ => true
  | .wrCtrl data => data.getLsbD 0 == false
  | .start data => data.getLsbD 0 == true
  | .wrStatus _ => true
  | .wrErrxy _ => true
  | .wrNone addr _ => !mappedOffsets.contains addr
  | .rdCfg => true
  | .rdDim => true
  | .rdCtrl => true
  | .rdStatus => true
  | .rdErrxy => true
  | .rdNone addr => !mappedOffsets.contains addr
  | .enc1Bit f => f.fmt == 0#3 && f.upright && f.rows != 0#16 && c.h % f.rows == 0#16
  | .enc4Bit f => f.fmt == 1#3 && f.upright
  | .enc8Bit f => f.fmt == 2#3 && f.upright
  | .enc8BitCol f => f.fmt == 2#3 && f.orient == 2#2
  | .encRgb565 f => f.fmt == 3#3 && f.upright
  | .encArgb4444 f => f.fmt == 4#3 && f.upright
  | .invalidFmt5 f => f.fmt == 5#3
  | .invalidFmt67 f => f.fmt == 6#3 || f.fmt == 7#3
  | .invalidOrient f => f.fmt.toNat < 5 && f.orient == 3#2
  | .invalid270Bit1 f => f.fmt == 0#3 && f.orient == 2#2
  | .invalid270Bit4 f => f.fmt == 1#3 && f.orient == 2#2
  | .invalid270Rgb565 f => f.fmt == 3#3 && f.orient == 2#2
  | .invalid270Argb4444 f => f.fmt == 4#3 && f.orient == 2#2
  | .invalidRows0 f => f.fmt == 0#3 && f.upright && f.rows == 0#16
  | .invalidRowsDiv f => f.fmt == 0#3 && f.upright && f.rows != 0#16 && c.h % f.rows != 0#16
  | .idle => true
  | .append _ => true
  | .pushRaw _ => c.rle == 0#1
  | .pushRle _ => c.rle == 1#1
  | .finishRaw => c.rle == 0#1
  | .finishRle => c.rle == 1#1
  | .stepHdr => true
  | .stepUnit => true
  | .stepFin => true

end Sys2Proof
end

