-- ==== Sys2Proof/Decode.lean ====
section
/-! DEFINITION. From bytes to an instruction and back (30_encoding.md; 43_host_interface.md R220).
A word lies in as many whole bytes as it needs, lowest byte first: HBUS in 6, CFGW in 4, PBUS in 2,
PHASE in 1 (log entry 11), so the number of bytes gives the format (R90). -/

namespace Sys2Proof

/-- Why the decoder reads no instruction. Every rejection is safe: the word is none of R90's. -/
inductive DecodeError where
  /-- No format has this many bytes (R90). -/
  | badLength (n : Nat)
  /-- A bit above an HBUS word's 41 is set. -/
  | hbusBeyond41
  /-- A reserved bit [15:8] of a CFGW word, which holds 0 (R95), is set. -/
  | cfgwReserved
  /-- A bit above a PBUS word's 10 is set. -/
  | pbusBeyond10
  /-- A bit above a PHASE word's 3 is set. -/
  | phaseBeyond3
  /-- PHASE 0, 4 or 5: the ENGINE has no step (R100). -/
  | noEngineStep
  /-- PHASE 6 or 7: never held (R100). -/
  | phaseNeverHeld
  deriving DecidableEq, Repr

/-- What decoding gives: an instruction, or a rejection by name. -/
inductive Decoded where
  | ok (i : Instr)
  | reject (e : DecodeError)
  deriving DecidableEq, Repr

/-- The instruction of a decoding that gave one. -/
def Decoded.instr? : Decoded → Option Instr
  | .ok i => some i
  | .reject _ => none

/-! ### Words and bytes -/

/-- The byte of bits [8i+7:8i] of a word (20_memory.md R69). -/
def byteOf {n : Nat} (i : Nat) (w : BitVec n) : Byte := w.extractLsb' (8 * i) 8

/-- The word of n bits whose bytes, lowest first, are the list: the inverse of byteOf. -/
def joinBytes (n : Nat) : List Byte → BitVec n
  | [] => 0#n
  | b :: bs => b.setWidth n ||| (joinBytes n bs <<< 8)

/-- A 41-bit HBUS word in six bytes, lowest first. -/
def hbusBytes (w : BitVec 41) : List Byte :=
  [byteOf 0 w, byteOf 1 w, byteOf 2 w, byteOf 3 w, byteOf 4 w, byteOf 5 w]

/-- A 32-bit CFGW word in four bytes, lowest first. -/
def cfgwBytes (w : Word) : List Byte := [byteOf 0 w, byteOf 1 w, byteOf 2 w, byteOf 3 w]

/-- A 10-bit PBUS word in two bytes, lowest first. -/
def pbusBytes (w : BitVec 10) : List Byte := [byteOf 0 w, byteOf 1 w]

/-! ### Fields -/

/-- The fields of a CFG word (R102). -/
def cfgFieldsOf (w : Word) : CfgFields where
  fmt := w.extractLsb' 0 3
  hdrw := w.extractLsb' 3 1
  orient := w.extractLsb' 4 2
  rle := w.extractLsb' 6 1
  mono := w.extractLsb' 7 1
  rows := w.extractLsb' 16 16

/-- The CFG word of fields: bits [15:8] are 0 (R92 to R95). -/
def cfgWordOf (f : CfgFields) : Word :=
  (f.rows.setWidth 32 <<< 16) ||| (f.mono.setWidth 32 <<< 7) ||| (f.rle.setWidth 32 <<< 6) |||
    (f.orient.setWidth 32 <<< 4) ||| (f.hdrw.setWidth 32 <<< 3) ||| f.fmt.setWidth 32

/-- An HBUS word of its three fields (R91). -/
def hbusWord (we : BitVec 1) (addr : Byte) (data : Word) : BitVec 41 :=
  (we.setWidth 41 <<< 40) ||| (addr.setWidth 41 <<< 32) ||| data.setWidth 41

/-- A PBUS word of its two fields (R98). -/
def pbusWord (op : BitVec 2) (data : Byte) : BitVec 10 :=
  (op.setWidth 10 <<< 8) ||| data.setWidth 10

/-! ### Decoding -/

/-- R220, with the START row before the WR_CTRL row (R223, R150): total on WE and ADDR. -/
def decodeHbus (we : BitVec 1) (addr : Byte) (data : Word) : Instr :=
  if we = 1#1 then
    if addr = 0x00#8 then .wrCfg data
    else if addr = 0x04#8 then .wrDim data
    else if addr = 0x08#8 then (if data.getLsbD 0 then .start data else .wrCtrl data)
    else if addr = 0x0C#8 then .wrStatus data
    else if addr = 0x10#8 then .wrErrxy data
    else .wrNone addr data
  else
    if addr = 0x00#8 then .rdCfg
    else if addr = 0x04#8 then .rdDim
    else if addr = 0x08#8 then .rdCtrl
    else if addr = 0x0C#8 then .rdStatus
    else if addr = 0x10#8 then .rdErrxy
    else .rdNone addr

/-- R97's illegal words in its order, then R96's session operations. -/
def decodeCfgw (c : SelectCtx) (f : CfgFields) : Instr :=
  if f.fmt = 5#3 then .invalidFmt5 f
  else if f.fmt = 6#3 ∨ f.fmt = 7#3 then .invalidFmt67 f
  else if f.orient = 3#2 then .invalidOrient f
  else if f.orient = 2#2 then
    if f.fmt = 0#3 then .invalid270Bit1 f
    else if f.fmt = 1#3 then .invalid270Bit4 f
    else if f.fmt = 2#3 then .enc8BitCol f
    else if f.fmt = 3#3 then .invalid270Rgb565 f
    else .invalid270Argb4444 f
  else if f.fmt = 0#3 then
    if f.rows = 0#16 then .invalidRows0 f
    else if c.h % f.rows = 0#16 then .enc1Bit f
    else .invalidRowsDiv f
  else if f.fmt = 1#3 then .enc4Bit f
  else if f.fmt = 2#3 then .enc8Bit f
  else if f.fmt = 3#3 then .encRgb565 f
  else .encArgb4444 f

/-- R99: all four codes are defined, and PUSH and FINISH run by the latched RLE bit (R98). -/
def decodePbus (c : SelectCtx) (op : BitVec 2) (data : Byte) : Instr :=
  if op = 0#2 then .idle
  else if op = 1#2 then .append data
  else if op = 2#2 then (if c.rle = 1#1 then .pushRle data else .pushRaw data)
  else (if c.rle = 1#1 then .finishRle else .finishRaw)

/-- R100. -/
def decodePhase (code : BitVec 3) : Decoded :=
  if code = 1#3 then .ok .stepHdr
  else if code = 2#3 then .ok .stepUnit
  else if code = 3#3 then .ok .stepFin
  else if code = 6#3 ∨ code = 7#3 then .reject .phaseNeverHeld
  else .reject .noEngineStep

/-- The HBUS decoding of a 48-bit container: the 41 bits and nothing above them. -/
def decodeHbusWord (w : BitVec 48) : Decoded :=
  if w.extractLsb' 41 7 = 0#7 then
    .ok (decodeHbus (w.extractLsb' 40 1) (w.extractLsb' 32 8) (w.extractLsb' 0 32))
  else .reject .hbusBeyond41

/-- The CFGW decoding of a word: bits [15:8] hold 0 (R95). -/
def decodeCfgwWord (c : SelectCtx) (w : Word) : Decoded :=
  if w.extractLsb' 8 8 = 0#8 then .ok (decodeCfgw c (cfgFieldsOf w)) else .reject .cfgwReserved

/-- The PBUS decoding of a 16-bit container: the 10 bits and nothing above them. -/
def decodePbusWord (c : SelectCtx) (w : BitVec 16) : Decoded :=
  if w.extractLsb' 10 6 = 0#6 then .ok (decodePbus c (w.extractLsb' 8 2) (w.extractLsb' 0 8))
  else .reject .pbusBeyond10

/-- The PHASE decoding of a byte: the 3 bits and nothing above them. -/
def decodePhaseByte (b : Byte) : Decoded :=
  if b.extractLsb' 3 5 = 0#5 then decodePhase (b.extractLsb' 0 3) else .reject .phaseBeyond3

/-- Decoding is total on any bytes: their number gives the format (R90). -/
def decode (c : SelectCtx) (bs : List Byte) : Decoded :=
  match bs with
  | [b] => decodePhaseByte b
  | [_, _] => decodePbusWord c (joinBytes 16 bs)
  | [_, _, _, _] => decodeCfgwWord c (joinBytes 32 bs)
  | [_, _, _, _, _, _] => decodeHbusWord (joinBytes 48 bs)
  | _ => .reject (.badLength bs.length)

/-! ### Encoding -/

/-- The bytes of a word of a format. -/
def formatBytes : Format → Nat
  | .hbus => 6
  | .cfgw => 4
  | .pbus => 2
  | .phase => 1

/-- The bytes of an instruction's word (R91, R95, R98, R100). Ignored DATA is written 0. -/
def encode : Instr → List Byte
  | .wrCfg data => hbusBytes (hbusWord 1#1 0x00#8 data)
  | .wrDim data => hbusBytes (hbusWord 1#1 0x04#8 data)
  | .wrCtrl data => hbusBytes (hbusWord 1#1 0x08#8 data)
  | .start data => hbusBytes (hbusWord 1#1 0x08#8 data)
  | .wrStatus data => hbusBytes (hbusWord 1#1 0x0C#8 data)
  | .wrErrxy data => hbusBytes (hbusWord 1#1 0x10#8 data)
  | .wrNone addr data => hbusBytes (hbusWord 1#1 addr data)
  | .rdCfg => hbusBytes (hbusWord 0#1 0x00#8 0#32)
  | .rdDim => hbusBytes (hbusWord 0#1 0x04#8 0#32)
  | .rdCtrl => hbusBytes (hbusWord 0#1 0x08#8 0#32)
  | .rdStatus => hbusBytes (hbusWord 0#1 0x0C#8 0#32)
  | .rdErrxy => hbusBytes (hbusWord 0#1 0x10#8 0#32)
  | .rdNone addr => hbusBytes (hbusWord 0#1 addr 0#32)
  | .enc1Bit f | .enc4Bit f | .enc8Bit f | .enc8BitCol f | .encRgb565 f | .encArgb4444 f
  | .invalidFmt5 f | .invalidFmt67 f | .invalidOrient f | .invalid270Bit1 f | .invalid270Bit4 f
  | .invalid270Rgb565 f | .invalid270Argb4444 f | .invalidRows0 f | .invalidRowsDiv f =>
    cfgwBytes (cfgWordOf f)
  | .idle => pbusBytes (pbusWord 0#2 0#8)
  | .append b => pbusBytes (pbusWord 1#2 b)
  | .pushRaw b => pbusBytes (pbusWord 2#2 b)
  | .pushRle b => pbusBytes (pbusWord 2#2 b)
  | .finishRaw => pbusBytes (pbusWord 3#2 0#8)
  | .finishRle => pbusBytes (pbusWord 3#2 0#8)
  | .stepHdr => [1#8]
  | .stepUnit => [2#8]
  | .stepFin => [3#8]

/-! ### The host's text syntax -/

/-- R106: the three HBUS words of `start fmt=F, hdr=H, orient=O, rle=E, mono=M, rows=R, w=W, h=Hh`:
`wr CFG`, `wr DIM`, `wr CTRL, 1`. The fields are the codes of R92 to R95 (HDRW is H - 1). -/
def expandStart (f : CfgFields) (w h : Half) : List (BitVec 41) :=
  [hbusWord 1#1 0x00#8 (cfgWordOf f), hbusWord 1#1 0x04#8 (h ++ w), hbusWord 1#1 0x08#8 1#32]

/-- R106's defaults: `hdr=1`, `orient=0`, `rle=0`, `mono=0`, `rows=1`. -/
def startDefaults (fmt : BitVec 3) : CfgFields where
  fmt := fmt
  hdrw := 0#1
  orient := 0#2
  rle := 0#1
  mono := 0#1
  rows := 1#16

/-- R105's `wr REG, value` and `rd REG`. -/
def wrWord (offset : Byte) (value : Word) : BitVec 41 := hbusWord 1#1 offset value
/-- R105's `rd REG`. -/
def rdWord (offset : Byte) : BitVec 41 := hbusWord 0#1 offset 0#32

/-! ### The opcode table's words -/

/-- The context a table word is decoded in: RLE off, and a latched height of 1 (log entry 12). -/
def tableCtx : SelectCtx where
  rle := 0#1
  h := 1#16

/-- The bytes a table word of nbits bits is laid out in. A word of at most 8 bits that is no PHASE
step is read as a CFGW word whose higher bits are 0 (log entry 12). -/
def tableBytes (nbits w : Nat) : List Byte :=
  if nbits ≤ 8 then
    if w = 1 ∨ w = 2 ∨ w = 3 then [BitVec.ofNat 8 w] else cfgwBytes (BitVec.ofNat 32 w)
  else if nbits ≤ 16 then [byteOf 0 (BitVec.ofNat 16 w), byteOf 1 (BitVec.ofNat 16 w)]
  else if nbits ≤ 32 then cfgwBytes (BitVec.ofNat 32 w)
  else
    [byteOf 0 (BitVec.ofNat 48 w), byteOf 1 (BitVec.ofNat 48 w), byteOf 2 (BitVec.ofNat 48 w),
     byteOf 3 (BitVec.ofNat 48 w), byteOf 4 (BitVec.ofNat 48 w), byteOf 5 (BitVec.ofNat 48 w)]

/-- The instruction the decoder reads from a table word of nbits bits. -/
def decodeTableWord (nbits w : Nat) : Option Instr :=
  if nbits ≤ 48 then (decode tableCtx (tableBytes nbits w)).instr? else none

end Sys2Proof
end

