-- ==== Sys2Proof/Machine/State.lean ====
section
/-! DEFINITION. The block's state (10_state.md), its ports and the agents' moves still to come, as
plain data; its value at reset (R38); the reasons a step can stop. -/

namespace Sys2Proof.Machine

/-- The ENGINE's sequencing state (R28, R100). -/
inductive Phase where
  | idle
  | hdr
  | body
  | fin
  | done
  | error
  deriving DecidableEq, Repr

/-- The RLE mode (R32). -/
inductive RMode where
  | literal
  | run
  deriving DecidableEq, Repr

/-- The producer's RLE state (R32, R33, R34), taken together. -/
structure RleState where
  rmode : RMode
  prev : Option Byte
  count : Byte
  deriving DecidableEq, Repr

/-- The latched configuration L (R27): the CFG fields and the image size. -/
structure Latched extends CfgFields where
  w : Half
  h : Half
  deriving DecidableEq, Repr

/-- An answer of the pixel source laid down in advance: the next read at (x, y) takes it (R61). -/
structure PixelEntry where
  x : Half
  y : Half
  answer : PixelAnswer
  deriving DecidableEq, Repr

/-- One move of the agents (R18, R70, R260; log entry 1). -/
inductive Move where
  /-- A host transaction: one HBUS word (R91). -/
  | host (w : BitVec 41)
  /-- The ENGINE's turn: the step its phase selects, if any (R28, R100). -/
  | engine
  /-- The external reset event (R260). -/
  | reset
  /-- The producer driven alone: one PBUS word, as in 95_test_vectors.md L2.2 (R98, R105). -/
  | producer (w : BitVec 10)
  /-- The session operation of the latched CFGW word run alone, as in 95_test_vectors.md L2.5 to
  L2.8 (R96, R180). -/
  | operation
  deriving DecidableEq, Repr

/-- An error that ends a session (60_exceptions.md R240, R243). -/
inductive SessionError where
  | invalidConfiguration (cause : BitVec 4)
  | sourceUnavailable (px py : Half)
  deriving DecidableEq, Repr

/-- The whole state: the spec's own pieces (R38), then the ports and the environment, which are
the model's fields (log entries 1 to 5). -/
structure State where
  /-- CFG (R21). -/
  cfg : Word
  /-- DIM (R22). -/
  dim : Word
  /-- The latched configuration (R27). -/
  L : Latched
  /-- The sequencing state (R28). -/
  phase : Phase
  /-- The source of STATUS.ERR (R29). -/
  err : BitVec 2
  /-- The source of STATUS.CAUSE (R29). -/
  cause : BitVec 4
  /-- The source of ERRXY (R29). -/
  errxy : Word
  /-- The unit cursor (R31). -/
  k : BitVec 32
  /-- The RLE mode (R32). -/
  rmode : RMode
  /-- The byte the next input is compared against (R33). -/
  prev : Option Byte
  /-- The run count (R34). -/
  count : Byte
  /-- The byte sink (R36). -/
  out : List Byte
  /-- RDATA of the latest host read; none before any (R91). -/
  rdata : Option Word
  /-- What the latest unit function run alone returned (R180). -/
  unitBytes : List Byte
  /-- Every byte put on the byte output port, oldest first (R64, R76). -/
  port : List Byte
  /-- Every coordinate sent on the pixel read port, oldest first (R61). -/
  reads : List Coord
  /-- The pixel source's answers laid down in advance (R10, R61). -/
  pixels : List PixelEntry
  /-- The agents' moves still to come, the next first; when there is none the ENGINE moves. -/
  schedule : List Move
  deriving DecidableEq, Repr

/-- Why the machine stops. Neither is reached in a session of the block. -/
inductive Fault where
  /-- Raised by STEP.UNIT and by a session operation run alone, when k is no unit of the image
  (k ≥ N(L)): R183 gives no anchor and R60 no coordinate to read. Safe: the model stops. -/
  | noSuchUnit
  /-- Raised by STEP.HDR and STEP.UNIT when L selects no session operation (R96): there is no tag,
  no unit count and no unit function. Safe: the model stops. -/
  | noSessionOperation
  deriving DecidableEq, Repr

/-- Why a fetched word has no meaning. -/
inductive Refusal where
  /-- Raised by exec alone, for an instruction that has no meaning yet. Safe. -/
  | notModelled (mnemonic : String)
  /-- Raised by step alone, for bytes the decoder rejects; no move of a schedule brings such bytes.
  Safe. -/
  | undecodable (e : DecodeError)
  deriving DecidableEq, Repr

/-- The latched configuration at reset: all fields 0 but rows, which is 1 (R27, R38). -/
def Latched.reset : Latched where
  fmt := 0#3
  hdrw := 0#1
  orient := 0#2
  rle := 0#1
  mono := 0#1
  rows := 1#16
  w := 0#16
  h := 0#16

/-- The machine right after reset (R38). The last six fields are the model's: nothing has passed a
port, and no move and no answer is laid down. -/
def State.reset : State where
  cfg := 0x00010000#32
  dim := 0#32
  L := Latched.reset
  phase := .idle
  err := 0#2
  cause := 0#4
  errxy := 0#32
  k := 0#32
  rmode := .literal
  prev := none
  count := 0#8
  out := []
  rdata := none
  unitBytes := []
  port := []
  reads := []
  pixels := []
  schedule := []

end Sys2Proof.Machine
end

