-- ==== Sys2Proof/Machine/Flags.lean ====
section
/-! DEFINITION. The flag-like state (10_state.md R37): the STATUS fields, computed from phase, err
and cause. The block has no arithmetic flags and no condition codes. -/

namespace Sys2Proof.Machine

/-- The PHASE code the ENGINE decodes (R100). -/
def phaseCode : Phase → BitVec 3
  | .idle => 0#3
  | .hdr => 1#3
  | .body => 2#3
  | .fin => 3#3
  | .done => 4#3
  | .error => 5#3

/-- STATUS.STATE (R24, R28). -/
def stateCode : Phase → BitVec 2
  | .idle => 0#2
  | .hdr | .body | .fin => 1#2
  | .done => 2#2
  | .error => 3#2

/-- A session is BUSY (R28). -/
def Phase.busy : Phase → Bool
  | .hdr | .body | .fin => true
  | .idle | .done | .error => false

/-- The STATUS word (R24, R230). -/
def State.statusWord (s : State) : Word :=
  (s.cause.setWidth 32 <<< 4) ||| (s.err.setWidth 32 <<< 2) ||| (stateCode s.phase).setWidth 32

end Sys2Proof.Machine
end

