-- ==== Sys2Proof/Machine/Operands.lean ====
section
/-! DEFINITION. What an operation computes from its operands and writes nowhere: validation, the
session operation, unit counts, traversal, orientation, packing, tag and size header. -/

namespace Sys2Proof.Machine

/-- L as START copies it from CFG and DIM (41_session.md R150; 30_encoding.md R102). -/
def latchOf (cfg dim : Word) : Latched :=
  { cfgFieldsOf cfg with w := dim.extractLsb' 0 16, h := dim.extractLsb' 16 16 }

/-- validate(L), a cause code, 0 for a valid configuration; the first that holds wins (R151). -/
def validate (L : Latched) : BitVec 4 :=
  if L.fmt = 5#3 ∨ L.fmt = 6#3 ∨ L.fmt = 7#3 then 1#4
  else if L.orient = 3#2 then 2#4
  else if L.orient = 2#2 ∧ L.fmt ≠ 2#3 then 3#4
  else if L.fmt = 0#3 ∧ L.rows = 0#16 then 4#4
  else if L.fmt = 0#3 ∧ L.h % L.rows ≠ 0#16 then 5#4
  else 0#4

/-- The session operation L selects (R96), if any. -/
def sessionOp (L : Latched) : Option SessionOp :=
  if validate L = 0#4 then
    if L.fmt = 0#3 then some .enc1Bit
    else if L.fmt = 1#3 then some .enc4Bit
    else if L.fmt = 2#3 then (if L.orient = 2#2 then some .enc8BitCol else some .enc8Bit)
    else if L.fmt = 3#3 then some .encRgb565
    else some .encArgb4444
  else none

/-- ceil(a / b) as 00_scope.md R12 writes it. -/
def ceilDiv (a b : Nat) : Nat := (a + b - 1) / b

/-- N(L), the number of units of an operation (R30, R182). -/
def unitCount (op : SessionOp) (L : Latched) : Nat :=
  match op with
  | .enc1Bit => L.w.toNat * ceilDiv L.h.toNat 8
  | .enc4Bit => L.w.toNat * ceilDiv L.h.toNat 2
  | .enc8Bit | .enc8BitCol | .encRgb565 | .encArgb4444 => L.w.toNat * L.h.toNat

/-- The orientation mapping (R181). 270° maps nothing: it only swaps the traversal. -/
def phys (orient : BitVec 2) (L : Latched) (x y : Nat) : Nat × Nat :=
  if orient = 1#2 then (L.w.toNat - 1 - x, L.h.toNat - 1 - y) else (x, y)

/-- The logical coordinates unit k reads, in the order it reads them, off-canvas rows left out
(R183, R185, R187, R189 to R192, R194). -/
def unitLogical (op : SessionOp) (L : Latched) (k : Nat) : List (Nat × Nat) :=
  match op with
  | .enc1Bit =>
    let y0 := 8 * (k / L.w.toNat)
    ((List.range 8).filter (fun z => y0 + z < L.h.toNat)).map (fun z => (k % L.w.toNat, y0 + z))
  | .enc4Bit =>
    let y := 2 * (k / L.w.toNat)
    if y + 1 < L.h.toNat then [(k % L.w.toNat, y), (k % L.w.toNat, y + 1)]
    else [(k % L.w.toNat, y)]
  | .enc8Bit | .encRgb565 | .encArgb4444 => [(k % L.w.toNat, k / L.w.toNat)]
  | .enc8BitCol => [(k / L.h.toNat, k % L.h.toNat)]

/-- The orientation an operation's reads are mapped by: ENC.8BIT.COL applies none (R190). -/
def readOrient (op : SessionOp) (orient : BitVec 2) : BitVec 2 :=
  match op with
  | .enc8BitCol => 0#2
  | .enc1Bit | .enc4Bit | .enc8Bit | .encRgb565 | .encArgb4444 => orient

/-- A coordinate as the pixel read port carries it, 16 bits an axis (R8). -/
def coordOf (p : Nat × Nat) : Coord := (BitVec.ofNat 16 p.1, BitVec.ofNat 16 p.2)

/-- The physical coordinates unit k reads, in order. -/
def unitCoords (op : SessionOp) (orient : BitVec 2) (L : Latched) (k : Nat) : List Coord :=
  (unitLogical op L k).map fun p => coordOf (phys (readOrient op orient) L p.1 p.2)

/-- The "on" predicate of the 1-bit format (R184). -/
def pixelOn (mono : BitVec 1) (c : Color) : Bool :=
  if mono = 1#1 then c.r != 0#8 else c.r == 0#8 && c.g == 0#8 && c.b == 0#8

/-- R185's byte: bit z is set when the z-th pixel read of the band is on, from bit z up. -/
def packBand (mono : BitVec 1) (z : Nat) : List Color → Byte
  | [] => 0#8
  | c :: cs => (if pixelOn mono c then 1#8 <<< z else 0#8) ||| packBand mono (z + 1) cs

/-- R187's byte: from 0xFF, one nibble bit is subtracted per set high bit of a grey value. -/
def packPair (top bot : Byte) : Byte :=
  [0, 1, 2, 3].foldl
    (fun v i =>
      let v := if top.getLsbD (4 + i) then v - (1#8 <<< i) else v
      if bot.getLsbD (4 + i) then v - (1#8 <<< (4 + i)) else v)
    0xFF#8

/-- R189's byte. -/
def packGray (g : Byte) : Byte := 255#8 - g

/-- R191's value. -/
def packRgb565 (c : Color) : BitVec 16 :=
  ((c.r >>> 3).setWidth 16 <<< 11) ||| ((c.g >>> 2).setWidth 16 <<< 5) ||| (c.b >>> 3).setWidth 16

/-- R192's value. -/
def packArgb4444 (c : Color) : BitVec 16 :=
  ((c.a / 16#8).setWidth 16 <<< 12) ||| ((c.r / 16#8).setWidth 16 <<< 8) |||
    ((c.g / 16#8).setWidth 16 <<< 4) ||| (c.b / 16#8).setWidth 16

/-- A 16-bit value low byte first (R67, R193). -/
def lowHigh (v : BitVec 16) : List Byte := [v.extractLsb' 0 8, v.extractLsb' 8 8]

/-- The bytes of a unit from the colours it read, in reading order (R180, R185 to R192). An
off-canvas 4-bit bottom has grey 255 (R188). -/
def packUnit (op : SessionOp) (mono : BitVec 1) (cs : List Color) : List Byte :=
  match op with
  | .enc1Bit => [packBand mono 0 cs]
  | .enc4Bit =>
    match cs with
    | [] => []
    | [top] => [packPair (Config.gray top) 255#8]
    | top :: bot :: _ => [packPair (Config.gray top) (Config.gray bot)]
  | .enc8Bit | .enc8BitCol => cs.map fun c => packGray (Config.gray c)
  | .encRgb565 => cs.flatMap fun c => lowHigh (packRgb565 c)
  | .encArgb4444 => cs.flatMap fun c => lowHigh (packArgb4444 c)

/-- tag(L) (R153). -/
def tagBytes (op : SessionOp) : List Byte :=
  match op with
  | .enc1Bit | .enc4Bit => []
  | .enc8Bit | .enc8BitCol | .encRgb565 => [0x00#8]
  | .encArgb4444 => [0x01#8]

/-- HH(L), the height the size header gives (R30, R154). -/
def headerHeight (op : SessionOp) (L : Latched) : Half :=
  match op with
  | .enc1Bit => L.h / L.rows
  | .enc4Bit | .enc8Bit | .enc8BitCol | .encRgb565 | .encArgb4444 => L.h

/-- size(L) (R154, R155): one byte per dimension, mod 256, or two, low byte first. -/
def sizeBytes (op : SessionOp) (L : Latched) : List Byte :=
  if L.hdrw = 1#1 then lowHigh L.w ++ lowHigh (headerHeight op L)
  else [L.w.setWidth 8, (headerHeight op L).setWidth 8]

end Sys2Proof.Machine
end

