-- ==== Sys2Proof/Machine/Rle.lean ====
section
/-! DEFINITION. The run-length transform of 40_byte_producer.md on its own state, as a function that
gives the new state and the bytes appended; the whole-stream encoder; the reference inverse. -/

namespace Sys2Proof.Machine

/-- The producer's START state (R127). -/
def rleStart : RleState where
  rmode := .literal
  prev := none
  count := 0#8

/-- PUSH in RLE mode (R124). In RUN mode "b = p" is read as prev = Some b (log entry 8). -/
def rlePush (r : RleState) (b : Byte) : RleState × List Byte :=
  match r.rmode with
  | .literal =>
    if r.prev = some b then ({ r with rmode := .run, count := 0#8 }, [b])
    else ({ r with prev := some b }, [b])
  | .run =>
    if r.prev = some b then
      if r.count + 1#8 = 255#8 then ({ rmode := .literal, prev := none, count := r.count + 1#8 }, [255#8])
      else ({ r with count := r.count + 1#8 }, [])
    else ({ r with rmode := .literal, prev := some b }, [r.count, b])

/-- What FINISH in RLE mode appends (R126); it leaves the START state. -/
def rleFlush (r : RleState) : List Byte :=
  match r.rmode with
  | .literal => []
  | .run => [r.count]

/-- PUSH in RLE mode of each byte in order. -/
def rlePushAll (r : RleState) : List Byte → RleState × List Byte
  | [] => (r, [])
  | b :: bs =>
    let first := rlePush r b
    let rest := rlePushAll first.1 bs
    (rest.1, first.2 ++ rest.2)

/-- PUSH of each byte from a given state, then FINISH: the bytes appended. -/
def rleEncodeFrom (r : RleState) (bs : List Byte) : List Byte :=
  (rlePushAll r bs).2 ++ rleFlush (rlePushAll r bs).1

/-- encodeRLE: the producer reset, PUSH of each byte in order, FINISH. -/
def encodeRle (bs : List Byte) : List Byte := rleEncodeFrom rleStart bs

/-- The reference inverse from a remembered byte p (R137); none is Malformed. A test oracle, no
operation of the hardware. -/
def decodeRleFrom (p : Option Byte) : List Byte → Option (List Byte)
  | [] => some []
  | [b] => if p = some b then none else some [b]
  | b :: c :: rest =>
    if p = some b then
      (decodeRleFrom none rest).map fun res => b :: (List.replicate c.toNat b ++ res)
    else (decodeRleFrom (some b) (c :: rest)).map (b :: ·)

/-- decodeRLE (R137). -/
def decodeRle (t : List Byte) : Option (List Byte) := decodeRleFrom none t

end Sys2Proof.Machine
end

