-- ==== Sys2Proof/Machine/Ops.lean ====
section
/-! DEFINITION. The named operations over the state: the byte sink, the producer, the pixel read
port, the session errors, START, the unit, the reset event and fetching a word's bytes. -/

namespace Sys2Proof.Machine

/-- What one instruction answers. -/
abbrev Answer := Host.Outcome State Fault Refusal

/-! ### The byte sink and the producer (20_memory.md R64; 40_byte_producer.md) -/

/-- SinkAppend(b): one byte at the end of `out` and on the output port (R64). -/
def State.sinkAppend (s : State) (b : Byte) : State :=
  { s with out := s.out ++ [b], port := s.port ++ [b] }

/-- SinkAppend of each byte in order (R76). -/
def State.sinkAppendAll (s : State) (bs : List Byte) : State := bs.foldl State.sinkAppend s

/-- The producer's state (R32 to R34). -/
def State.rle (s : State) : RleState where
  rmode := s.rmode
  prev := s.prev
  count := s.count

/-- Write the producer's state. -/
def State.setRle (s : State) (r : RleState) : State :=
  { s with rmode := r.rmode, prev := r.prev, count := r.count }

/-- PUSH b, raw (R123). -/
def State.pushRaw (s : State) (b : Byte) : State := s.sinkAppend b

/-- PUSH b, RLE (R124). -/
def State.pushRle (s : State) (b : Byte) : State :=
  (s.sinkAppendAll (rlePush s.rle b).2).setRle (rlePush s.rle b).1

/-- FINISH, raw (R125): nothing. -/
def State.finishRaw (s : State) : State := s

/-- FINISH, RLE (R126). -/
def State.finishRle (s : State) : State := (s.sinkAppendAll (rleFlush s.rle)).setRle rleStart

/-- PUSH as the latched bit L.rle selects it (R98, R120). -/
def State.push (s : State) (b : Byte) : State := if s.L.rle = 1#1 then s.pushRle b else s.pushRaw b

/-- PUSH of each byte in order (R157). -/
def State.pushAll (s : State) (bs : List Byte) : State := bs.foldl State.push s

/-- FINISH as the latched bit L.rle selects it (R98, R120). -/
def State.finish (s : State) : State := if s.L.rle = 1#1 then s.finishRle else s.finishRaw

/-! ### Session errors (60_exceptions.md) -/

/-- ERRXY for a coordinate: Y in bits [31:16], X in [15:0] (R244). -/
def errxyOf (px py : Half) : Word := (py.setWidth 32 <<< 16) ||| px.setWidth 32

/-- Raise a session error: the one error entry of the block (R240, R243, R248). There is no return
from it but a START (R250). -/
def State.raise (s : State) : SessionError → State
  | .invalidConfiguration c => { s with phase := .error, err := 1#2, cause := c }
  | .sourceUnavailable px py => { s with phase := .error, err := 2#2, errxy := errxyOf px py }

/-! ### The pixel read port (20_memory.md R61) -/

/-- The entry is an answer for the read at (x, y). -/
def PixelEntry.isAt (x y : Half) (e : PixelEntry) : Bool := e.x == x && e.y == y

/-- What SRC answers if (x, y) is read now: the first answer laid down for it, else a free one. -/
def State.sourceAnswer (s : State) (x y : Half) : PixelAnswer :=
  match s.pixels.find? (PixelEntry.isAt x y) with
  | some e => e.answer
  | none => Config.sourceAnswer s.reads.length x y

/-- The read transaction at (x, y): its coordinate goes out, and an answer laid down for it is used
up. Nothing else changes (R63). -/
def State.sendRead (s : State) (x y : Half) : State :=
  { s with reads := s.reads ++ [(x, y)], pixels := s.pixels.eraseP (PixelEntry.isAt x y) }

/-- What a unit's reads come to. -/
inductive ReadResult where
  /-- Every read was answered: the colours in order, and the state after. -/
  | colors (cs : List Color) (s : State)
  /-- The read at (x, y) failed: its coordinate, and the state after. -/
  | unavailable (x y : Half) (s : State)
  deriving DecidableEq, Repr

/-- PixelRead at each coordinate in order, up to the first that fails (R180, R194). -/
def State.readAll (s : State) : List Coord → ReadResult
  | [] => .colors [] s
  | (x, y) :: rest =>
    match s.sourceAnswer x y with
    | .fail => .unavailable x y (s.sendRead x y)
    | .ok c =>
      match (s.sendRead x y).readAll rest with
      | .colors cs t => .colors (c :: cs) t
      | .unavailable px py t => .unavailable px py t

/-! ### START and the engine's steps (41_session.md) -/

/-- A new session's state, before validation: L latched, `out` empty, the producer in its START
state, k and the error report 0 (R150). -/
def State.begin (s : State) : State :=
  { s with L := latchOf s.cfg s.dim, out := [], rmode := .literal, prev := none, count := 0#8, k := 0#32,
           err := 0#2, cause := 0#4, errxy := 0#32 }

/-- START (R150). -/
def State.start (s : State) : State :=
  if s.phase.busy then s
  else if validate (latchOf s.cfg s.dim) = 0#4 then { s.begin with phase := .hdr }
  else s.begin.raise (.invalidConfiguration (validate (latchOf s.cfg s.dim)))

/-- STEP.HDR for a session operation (R156). -/
def State.headerStep (s : State) (op : SessionOp) : State :=
  { s.sinkAppendAll (tagBytes op ++ sizeBytes op s.L) with
      phase := if unitCount op s.L = 0 then .fin else .body }

/-- The end of a STEP.UNIT that pushed its bytes: the cursor moves on, and after the last unit the
phase does (R157). -/
def State.advanceUnit (s : State) (op : SessionOp) : State :=
  { s with k := s.k + 1#32, phase := if (s.k + 1#32).toNat = unitCount op s.L then .fin else s.phase }

/-- STEP.UNIT for a session operation (R157): all reads, then all pushes, or the error. -/
def State.unitStep (s : State) (op : SessionOp) : State :=
  match s.readAll (unitCoords op s.L.orient s.L s.k.toNat) with
  | .colors cs t => (t.pushAll (packUnit op s.L.mono cs)).advanceUnit op
  | .unavailable px py t => t.raise (.sourceUnavailable px py)

/-- The unit function of a session operation (R180), with the word's own ORIENT and MONO: it
returns the unit's bytes, or raises. R180's `read` raises SourceUnavailable, and R243 has that raised
inside STEP.UNIT alone. DESIGN CHOICE (log entry 14): run alone, outside STEP.UNIT and in any phase, the
unit function raises all the same: phase, err and errxy as R243 writes them, and cause, k, `out`, the
producer and the unit lane as they were. -/
def State.unitFunction (s : State) (op : SessionOp) (f : CfgFields) : State :=
  match s.readAll (unitCoords op f.orient s.L s.k.toNat) with
  | .colors cs t => { t with unitBytes := packUnit op f.mono cs }
  | .unavailable px py t => t.raise (.sourceUnavailable px py)

/-- A session operation run alone: it needs a unit k of the image (R183; log entry 9). -/
def runOperation (op : SessionOp) (f : CfgFields) (s : State) : Answer :=
  if s.k.toNat < unitCount op s.L then .next (s.unitFunction op f) else .fault .noSuchUnit

/-! ### The register window (43_host_interface.md) -/

/-- CFG's writable bits: [15:8] are reserved (R21, R221). -/
def cfgWritable : Word := 0xFFFF00FF#32

/-- A read transaction answers RDATA and changes nothing else (R73, R91). -/
def State.respond (s : State) (v : Word) : State := { s with rdata := some v }

/-! ### Moves, the reset event and fetching -/

/-- The next move: the schedule's first, or the ENGINE's (log entry 1). -/
def State.nextMove (s : State) : Move :=
  match s.schedule with
  | [] => .engine
  | m :: _ => m

/-- The state with its next move taken off the schedule. -/
def State.popMove (s : State) : State := { s with schedule := s.schedule.tail }

/-- The reset event (70_reset_and_hazards.md R260): every piece of the block's state at its reset
value. What lies outside the block stays: what has passed the ports, and what is still to come. -/
def State.resetEvent (s : State) : State :=
  { State.reset with port := s.port, reads := s.reads, pixels := s.pixels, schedule := s.schedule }

/-- The context the state decodes a word in: the latched RLE bit and height (R96, R98). -/
def State.selectCtx (s : State) : SelectCtx where
  rle := s.L.rle
  h := s.L.h

/-- The bytes of the word a move brings to the decoder: a host transaction its HBUS word, the
ENGINE the code of its phase (R100), the producer its PBUS word, a session operation the latched
CFGW word (R96). Reset is an event and brings none. -/
def State.fetchBytes (s : State) : Move → List Byte
  | .host w => hbusBytes w
  | .engine => [(phaseCode s.phase).setWidth 8]
  | .reset => []
  | .producer w => pbusBytes w
  | .operation => cfgwBytes (cfgWordOf s.L.toCfgFields)

/-- What a step does with a rejected word. A phase without an engine step lets the turn pass (R28);
any other is refused. -/
def rejectWord (e : DecodeError) (s : State) : Answer :=
  match e with
  | .noEngineStep => .next s
  | .badLength n => .refused (.undecodable (.badLength n))
  | .hbusBeyond41 => .refused (.undecodable .hbusBeyond41)
  | .cfgwReserved => .refused (.undecodable .cfgwReserved)
  | .pbusBeyond10 => .refused (.undecodable .pbusBeyond10)
  | .phaseBeyond3 => .refused (.undecodable .phaseBeyond3)
  | .phaseNeverHeld => .refused (.undecodable .phaseNeverHeld)

/-! ### Placing a table word where the next step fetches it (log entry 12) -/

/-- An image has at least one unit: an empty axis becomes 1. -/
def Latched.nonEmpty (L : Latched) : Latched :=
  { L with w := if L.w = 0#16 then 1#16 else L.w, h := if L.h = 0#16 then 1#16 else L.h }

/-- Put a move first on the schedule. -/
def State.pushMove (s : State) (m : Move) : State := { s with schedule := m :: s.schedule }

/-- The latched CFG fields become those of a CFGW word, over an image that has a unit, and the
session operation is the next move. -/
def State.placeCfgw (s : State) (w : Word) : State :=
  { s with L := { s.L.nonEmpty with toCfgFields := cfgFieldsOf w } }.pushMove .operation

/-- The state whose next step fetches the table word of nbits bits (the formats by length as in
tableBytes). -/
def State.placeWord (s : State) (nbits w : Nat) : State :=
  if nbits ≤ 8 then
    if w = 1 then { s with phase := .hdr }.pushMove .engine
    else if w = 2 then { s with phase := .body, L := s.L.nonEmpty }.pushMove .engine
    else if w = 3 then { s with phase := .fin }.pushMove .engine
    else s.placeCfgw (BitVec.ofNat 32 w)
  else if nbits ≤ 16 then s.pushMove (.producer (BitVec.ofNat 10 w))
  else if nbits ≤ 32 then s.placeCfgw (BitVec.ofNat 32 w)
  else s.pushMove (.host (BitVec.ofNat 41 w))

end Sys2Proof.Machine
end

