-- ==== Sys2Proof/Machine/Engine.lean ====
section
/-! DEFINITION. The ENGINE's three steps (41_session.md R156 to R158). -/

namespace Sys2Proof.Machine

/-- R156. Without a session operation there is no tag and no unit count (log entry 10). -/
def execStepHdr (s : State) : Answer :=
  match sessionOp s.L with
  | none => .fault .noSessionOperation
  | some op => .next (s.headerStep op)

/-- R157: taken only while k < N(L) (log entry 9). -/
def execStepUnit (s : State) : Answer :=
  match sessionOp s.L with
  | none => .fault .noSessionOperation
  | some op => if s.k.toNat < unitCount op s.L then .next (s.unitStep op) else .fault .noSuchUnit

/-- R158. -/
def execStepFin (s : State) : Answer := .next { s.finish with phase := .done }

end Sys2Proof.Machine
end

