-- ==== Sys2Proof/Machine/Formats.lean ====
section
/-! DEFINITION. The six session operations (30_encoding.md R96; 42_pixel_formats.md): each is its
unit function, run on the unit the cursor names, over the latched image size (R180).
Run alone, a failed read raises as it does inside STEP.UNIT (log entry 14). -/

namespace Sys2Proof.Machine

/-- R185. -/
def execEnc1Bit (f : CfgFields) (s : State) : Answer := runOperation .enc1Bit f s

/-- R187. -/
def execEnc4Bit (f : CfgFields) (s : State) : Answer := runOperation .enc4Bit f s

/-- R189. -/
def execEnc8Bit (f : CfgFields) (s : State) : Answer := runOperation .enc8Bit f s

/-- R190. -/
def execEnc8BitCol (f : CfgFields) (s : State) : Answer := runOperation .enc8BitCol f s

/-- R191. -/
def execEncRgb565 (f : CfgFields) (s : State) : Answer := runOperation .encRgb565 f s

/-- R192. -/
def execEncArgb4444 (f : CfgFields) (s : State) : Answer := runOperation .encArgb4444 f s

end Sys2Proof.Machine
end

