-- ==== Sys2Proof/Machine/HostBus.lean ====
section
/-! DEFINITION. The host register transactions (43_host_interface.md) and START (41_session.md
R150). None raises an exception of its own, and each runs in every phase (R252). -/

namespace Sys2Proof.Machine

/-- R221: the reserved bits [15:8] are dropped. -/
def execWrCfg (data : Word) (s : State) : Answer := .next { s with cfg := data &&& cfgWritable }

/-- R222. -/
def execWrDim (data : Word) (s : State) : Answer := .next { s with dim := data }

/-- R223: START when DATA[0] = 1, else nothing. -/
def execWrCtrl (data : Word) (s : State) : Answer :=
  .next (if data.getLsbD 0 then s.start else s)

/-- R150, the write of CTRL with DATA[0] = 1; DATA[31:1] is ignored (R223). -/
def execStart (_data : Word) (s : State) : Answer := .next s.start

/-- R224: STATUS is read-only. -/
def execWrStatus (_data : Word) (s : State) : Answer := .next s

/-- R225: ERRXY is read-only. -/
def execWrErrxy (_data : Word) (s : State) : Answer := .next s

/-- R226: no register there. -/
def execWrNone (_addr : Byte) (_data : Word) (s : State) : Answer := .next s

/-- R227: the register, not L. -/
def execRdCfg (s : State) : Answer := .next (s.respond s.cfg)

/-- R228: the register, not L. -/
def execRdDim (s : State) : Answer := .next (s.respond s.dim)

/-- R229: CTRL has no storage. -/
def execRdCtrl (s : State) : Answer := .next (s.respond 0#32)

/-- R230. -/
def execRdStatus (s : State) : Answer := .next (s.respond s.statusWord)

/-- R231. -/
def execRdErrxy (s : State) : Answer := .next (s.respond s.errxy)

/-- R232: no register there. -/
def execRdNone (_addr : Byte) (s : State) : Answer := .next (s.respond 0#32)

end Sys2Proof.Machine
end

