-- ==== Sys2Proof/Machine/Invalid.lean ====
section
/-! DEFINITION. The illegal CFGW words (30_encoding.md R97): each raises InvalidConfiguration with
its cause (60_exceptions.md R240, R241). The spec has START alone raise it, and there `out` is []
(R240): START does so with `validate`, by the same State.raise. DESIGN CHOICE (log entry 13): the meaning
of the word as an opcode-table row, run alone by the operation move, is that raise in any phase, and it
leaves `out`, k, errxy and everything else as they were. No HOST and no ENGINE makes that move. -/

namespace Sys2Proof.Machine

/-- Cause 1: FMT 5. -/
def execInvalidFmt5 (_f : CfgFields) (s : State) : Answer :=
  .next (s.raise (.invalidConfiguration 1#4))

/-- Cause 1: FMT 6 or 7. -/
def execInvalidFmt67 (_f : CfgFields) (s : State) : Answer :=
  .next (s.raise (.invalidConfiguration 1#4))

/-- Cause 2: ORIENT 3. -/
def execInvalidOrient (_f : CfgFields) (s : State) : Answer :=
  .next (s.raise (.invalidConfiguration 2#4))

/-- Cause 3: 1BIT at 270°. -/
def execInvalid270Bit1 (_f : CfgFields) (s : State) : Answer :=
  .next (s.raise (.invalidConfiguration 3#4))

/-- Cause 3: 4BIT at 270°. -/
def execInvalid270Bit4 (_f : CfgFields) (s : State) : Answer :=
  .next (s.raise (.invalidConfiguration 3#4))

/-- Cause 3: RGB565 at 270°. -/
def execInvalid270Rgb565 (_f : CfgFields) (s : State) : Answer :=
  .next (s.raise (.invalidConfiguration 3#4))

/-- Cause 3: ARGB4444 at 270°. -/
def execInvalid270Argb4444 (_f : CfgFields) (s : State) : Answer :=
  .next (s.raise (.invalidConfiguration 3#4))

/-- Cause 4: 1BIT with ROWS = 0. -/
def execInvalidRows0 (_f : CfgFields) (s : State) : Answer :=
  .next (s.raise (.invalidConfiguration 4#4))

/-- Cause 5: 1BIT with HEIGHT mod ROWS ≠ 0. -/
def execInvalidRowsDiv (_f : CfgFields) (s : State) : Answer :=
  .next (s.raise (.invalidConfiguration 5#4))

end Sys2Proof.Machine
end

