-- ==== Sys2Proof/Machine/Producer.lean ====
section
/-! DEFINITION. The producer-bus operations (40_byte_producer.md). None reads the pixel source and
none raises an exception. -/

namespace Sys2Proof.Machine

/-- R121. -/
def execIdle (s : State) : Answer := .next s

/-- R122: past the producer, in either mode. -/
def execAppend (b : Byte) (s : State) : Answer := .next (s.sinkAppend b)

/-- R123. -/
def execPushRaw (b : Byte) (s : State) : Answer := .next (s.pushRaw b)

/-- R124. -/
def execPushRle (b : Byte) (s : State) : Answer := .next (s.pushRle b)

/-- R125. -/
def execFinishRaw (s : State) : Answer := .next s.finishRaw

/-- R126. -/
def execFinishRle (s : State) : Answer := .next s.finishRle

end Sys2Proof.Machine
end

