-- ==== Sys2Proof/Machine/Dispatch.lean ====
section
/-! DEFINITION. From an instruction to its meaning: one arm per constructor of Instr. -/

namespace Sys2Proof.Machine

def exec (i : Instr) (s : State) : Host.Outcome State Fault Refusal :=
  match i with
  -- HBUS
  | .wrCfg data => Sys2Proof.Machine.execWrCfg data s
  | .wrDim data => Sys2Proof.Machine.execWrDim data s
  | .wrCtrl data => Sys2Proof.Machine.execWrCtrl data s
  | .start data => Sys2Proof.Machine.execStart data s
  | .wrStatus data => Sys2Proof.Machine.execWrStatus data s
  | .wrErrxy data => Sys2Proof.Machine.execWrErrxy data s
  | .wrNone addr data => Sys2Proof.Machine.execWrNone addr data s
  | .rdCfg => Sys2Proof.Machine.execRdCfg s
  | .rdDim => Sys2Proof.Machine.execRdDim s
  | .rdCtrl => Sys2Proof.Machine.execRdCtrl s
  | .rdStatus => Sys2Proof.Machine.execRdStatus s
  | .rdErrxy => Sys2Proof.Machine.execRdErrxy s
  | .rdNone addr => Sys2Proof.Machine.execRdNone addr s
  -- CFGW, the session operations
  | .enc1Bit f => Sys2Proof.Machine.execEnc1Bit f s
  | .enc4Bit f => Sys2Proof.Machine.execEnc4Bit f s
  | .enc8Bit f => Sys2Proof.Machine.execEnc8Bit f s
  | .enc8BitCol f => Sys2Proof.Machine.execEnc8BitCol f s
  | .encRgb565 f => Sys2Proof.Machine.execEncRgb565 f s
  | .encArgb4444 f => Sys2Proof.Machine.execEncArgb4444 f s
  -- CFGW, the illegal words
  | .invalidFmt5 f => Sys2Proof.Machine.execInvalidFmt5 f s
  | .invalidFmt67 f => Sys2Proof.Machine.execInvalidFmt67 f s
  | .invalidOrient f => Sys2Proof.Machine.execInvalidOrient f s
  | .invalid270Bit1 f => Sys2Proof.Machine.execInvalid270Bit1 f s
  | .invalid270Bit4 f => Sys2Proof.Machine.execInvalid270Bit4 f s
  | .invalid270Rgb565 f => Sys2Proof.Machine.execInvalid270Rgb565 f s
  | .invalid270Argb4444 f => Sys2Proof.Machine.execInvalid270Argb4444 f s
  | .invalidRows0 f => Sys2Proof.Machine.execInvalidRows0 f s
  | .invalidRowsDiv f => Sys2Proof.Machine.execInvalidRowsDiv f s
  -- PBUS
  | .idle => Sys2Proof.Machine.execIdle s
  | .append b => Sys2Proof.Machine.execAppend b s
  | .pushRaw b => Sys2Proof.Machine.execPushRaw b s
  | .pushRle b => Sys2Proof.Machine.execPushRle b s
  | .finishRaw => Sys2Proof.Machine.execFinishRaw s
  | .finishRle => Sys2Proof.Machine.execFinishRle s
  -- PHASE
  | .stepHdr => Sys2Proof.Machine.execStepHdr s
  | .stepUnit => Sys2Proof.Machine.execStepUnit s
  | .stepFin => Sys2Proof.Machine.execStepFin s

end Sys2Proof.Machine
end

