-- ==== Sys2Proof/Machine/Step.lean ====
section
/-! DEFINITION. One atomic transition of the block (20_memory.md R70; 70_reset_and_hazards.md
R260): the next move's word is fetched, decoded in the state's context and run. -/

namespace Sys2Proof.Machine

/-- One step: the reset event, or the word of the next move. The move leaves the schedule. -/
def step (s : State) : Host.Outcome State Fault Refusal :=
  match s.nextMove with
  | .reset => .next s.popMove.resetEvent
  | m =>
    match decode s.selectCtx (s.fetchBytes m) with
    | .ok i => exec i s.popMove
    | .reject e => rejectWord e s.popMove

/-- The state whose next step fetches and runs the table word w of nbits bits. -/
def State.withFetchWord (s : State) (nbits w : Nat) : State := s.placeWord nbits w

end Sys2Proof.Machine
end

