-- ==== Sys2Proof/Safety.lean ====
section
/-! DEFINITION. The terms claims are made in: the artifact of a session, the invariant every
transition of the two agents and of reset keeps, and a session's body as one list. -/

namespace Sys2Proof.Machine

/-- The artifact of a session that ended in DONE is the whole of `out`; no other state has one
(00_scope.md R19; 60_exceptions.md R245). -/
def State.artifact (s : State) : Option (List Byte) := if s.phase = .done then some s.out else none

/-- A move of the HOST, the ENGINE or reset (R18, R260), and not one that drives a unit alone. -/
def Move.architectural : Move → Bool
  | .host _ | .engine | .reset => true
  | .producer _ | .operation => false

/-- A host transaction. -/
def Move.isHost : Move → Bool
  | .host _ => true
  | .engine | .reset | .producer _ | .operation => false

/-- What holds between transitions, however HOST, ENGINE and reset interleave. -/
structure State.Inv (s : State) : Prop where
  /-- CFG's reserved bits [15:8] read 0 (R21, R103). -/
  cfgReserved : s.cfg &&& 0x0000FF00#32 = 0#32
  /-- ERR ≠ 0 exactly when STATE = ERROR (R24). -/
  errIffError : s.err ≠ 0#2 ↔ s.phase = .error
  /-- CAUSE ≠ 0 exactly when ERR = 1 (R24). -/
  causeIffInvalid : s.cause ≠ 0#4 ↔ s.err = 1#2
  /-- ERR 3 is never produced (R101). -/
  errInRange : s.err ≠ 3#2
  /-- CAUSE 6 to 15 are never produced (R101). -/
  causeInRange : s.cause.toNat ≤ 5
  /-- ERRXY reads 0 unless the session ended in SourceUnavailable (R25, R231). -/
  errxyCleared : s.err ≠ 2#2 → s.errxy = 0#32
  /-- In RUN mode prev = Some p, count ≤ 254 and the last byte of `out` is p (R35). -/
  runHasByte : s.rmode = .run →
    ∃ p, s.prev = some p ∧ s.count.toNat ≤ 254 ∧ s.out.getLast? = some p
  /-- With L.rle = 0 the producer stays in its START state (R35). -/
  rawIsStart : s.L.rle = 0#1 → s.rle = rleStart
  /-- A BUSY session passed validation (R150). -/
  busyIsValid : s.phase.busy = true → validate s.L = 0#4
  /-- Before STEP.HDR nothing is written, the cursor is 0 and the producer fresh (R150). -/
  hdrIsFresh : s.phase = .hdr → s.out = [] ∧ s.k = 0#32 ∧ s.rle = rleStart
  /-- STEP.UNIT is taken only while k < N(L) (R157). -/
  bodyHasUnit : s.phase = .body → ∀ op, sessionOp s.L = some op → s.k.toNat < unitCount op s.L
  /-- The flush comes after the last unit (R157, R158). -/
  finAtEnd : s.phase = .fin → ∀ op, sessionOp s.L = some op → s.k.toNat = unitCount op s.L
  /-- `out` is the newest part of what passed the output port (R64). -/
  outOnPort : s.out <:+ s.port
  /-- No unit is driven alone. -/
  scheduleArchitectural : ∀ m ∈ s.schedule, m.architectural = true

/-- body(L) from the state's cursor on (41_session.md R159): the bytes of the next n units in
order, and the state after their reads; none when a read fails. -/
def bodyFrom (op : SessionOp) : Nat → State → Option (List Byte × State)
  | 0, s => some ([], s)
  | n + 1, s =>
    match s.readAll (unitCoords op s.L.orient s.L s.k.toNat) with
    | .unavailable _ _ _ => none
    | .colors cs t =>
      (bodyFrom op n { t with k := t.k + 1#32 }).map fun r =>
        (packUnit op s.L.mono cs ++ r.1, r.2)

/-- P(s) of R159: the body as the selected producer writes it. -/
def producedBody (L : Latched) (body : List Byte) : List Byte :=
  if L.rle = 1#1 then encodeRle body else body

/-- The InvalidConfiguration cause a word of the block stands for; 0 for every word that is legal
(30_encoding.md R97, its last column; 60_exceptions.md R241). -/
def invalidCause : Instr → BitVec 4
  | .invalidFmt5 _ | .invalidFmt67 _ => 1#4
  | .invalidOrient _ => 2#4
  | .invalid270Bit1 _ | .invalid270Bit4 _ | .invalid270Rgb565 _ | .invalid270Argb4444 _ => 3#4
  | .invalidRows0 _ => 4#4
  | .invalidRowsDiv _ => 5#4
  | .wrCfg _ | .wrDim _ | .wrCtrl _ | .start _ | .wrStatus _ | .wrErrxy _ | .wrNone _ _
  | .rdCfg | .rdDim | .rdCtrl | .rdStatus | .rdErrxy | .rdNone _
  | .enc1Bit _ | .enc4Bit _ | .enc8Bit _ | .enc8BitCol _ | .encRgb565 _ | .encArgb4444 _
  | .idle | .append _ | .pushRaw _ | .pushRle _ | .finishRaw | .finishRle
  | .stepHdr | .stepUnit | .stepFin => 0#4

/-- The session operation a word stands for, if it is one (R96). -/
def operationOf : Instr → Option SessionOp
  | .enc1Bit _ => some .enc1Bit
  | .enc4Bit _ => some .enc4Bit
  | .enc8Bit _ => some .enc8Bit
  | .enc8BitCol _ => some .enc8BitCol
  | .encRgb565 _ => some .encRgb565
  | .encArgb4444 _ => some .encArgb4444
  | .wrCfg _ | .wrDim _ | .wrCtrl _ | .start _ | .wrStatus _ | .wrErrxy _ | .wrNone _ _
  | .rdCfg | .rdDim | .rdCtrl | .rdStatus | .rdErrxy | .rdNone _
  | .invalidFmt5 _ | .invalidFmt67 _ | .invalidOrient _ | .invalid270Bit1 _ | .invalid270Bit4 _
  | .invalid270Rgb565 _ | .invalid270Argb4444 _ | .invalidRows0 _ | .invalidRowsDiv _
  | .idle | .append _ | .pushRaw _ | .pushRle _ | .finishRaw | .finishRle
  | .stepHdr | .stepUnit | .stepFin => none

/-- The engine's remaining steps of a session that meets no failure (R160). -/
def stepsLeft (op : SessionOp) (s : State) : Nat :=
  match s.phase with
  | .hdr => unitCount op s.L + 2
  | .body => unitCount op s.L - s.k.toNat + 1
  | .fin => 1
  | .idle | .done | .error => 0

end Sys2Proof.Machine

/-- How many of a word's first bytes its row ignores: DATA of a read (30_encoding.md R91), and of IDLE
and FINISH (R98). -/
def Sys2Proof.Instr.ignoredBytes : Sys2Proof.Instr → Nat
  | .rdCfg | .rdDim | .rdCtrl | .rdStatus | .rdErrxy | .rdNone _ => 4
  | .idle | .finishRaw | .finishRle => 1
  | .wrCfg _ | .wrDim _ | .wrCtrl _ | .start _ | .wrStatus _ | .wrErrxy _ | .wrNone _ _
  | .enc1Bit _ | .enc4Bit _ | .enc8Bit _ | .enc8BitCol _ | .encRgb565 _ | .encArgb4444 _
  | .invalidFmt5 _ | .invalidFmt67 _ | .invalidOrient _ | .invalid270Bit1 _ | .invalid270Bit4 _
  | .invalid270Rgb565 _ | .invalid270Argb4444 _ | .invalidRows0 _ | .invalidRowsDiv _
  | .append _ | .pushRaw _ | .pushRle _ | .stepHdr | .stepUnit | .stepFin => 0
end

