-- ==== Sys2Proof/Certificates/Slice0/Obligations.lean ====
section
/-! DEFINITION. The statements for the provers. Each docstring says which rule of spec/ it
formalises. -/

open Sys2Proof Sys2Proof.Machine

/-! ## Reset and the register window -/

/-- R38: after reset every piece of state holds its reset value. -/
def Obligations.ResetLeavesEveryPieceAtItsValue : Prop :=
  State.reset.cfg = 0x00010000#32 ∧ State.reset.dim = 0#32 ∧
  exec .rdCtrl State.reset = .next { State.reset with rdata := some 0#32 } ∧
  exec .rdStatus State.reset = .next { State.reset with rdata := some 0#32 } ∧
  exec .rdErrxy State.reset = .next { State.reset with rdata := some 0#32 } ∧
  State.reset.errxy = 0#32 ∧
  State.reset.L =
    { fmt := 0#3, hdrw := 0#1, orient := 0#2, rle := 0#1, mono := 0#1, rows := 1#16,
      w := 0#16, h := 0#16 } ∧
  State.reset.phase = .idle ∧ State.reset.err = 0#2 ∧ State.reset.cause = 0#4 ∧
  State.reset.k = 0#32 ∧ State.reset.rmode = .literal ∧ State.reset.prev = none ∧
  State.reset.count = 0#8 ∧ State.reset.out = []

/-- R260, R261: reset, in any phase, is one transition that sets every piece of the block's state
to its reset value; no FINISH is done (nothing more reaches the output port), `out` is emptied,
STATUS reads 0, and the ENGINE then has no step: its turn changes nothing. -/
def Obligations.ResetEventRestoresEveryPiece : Prop :=
  ∀ s : State, s.nextMove = .reset → ∃ t, step s = .next t ∧
    t.cfg = 0x00010000#32 ∧ t.dim = 0#32 ∧ t.L = Latched.reset ∧ t.phase = .idle ∧
    t.err = 0#2 ∧ t.cause = 0#4 ∧ t.errxy = 0#32 ∧ t.k = 0#32 ∧ t.rmode = .literal ∧
    t.prev = none ∧ t.count = 0#8 ∧ t.out = [] ∧ t.statusWord = 0#32 ∧
    t.port = s.port ∧ step { t with schedule := [] } = .next { t with schedule := [] }

/-- R221: WR_CFG stores DATA with bits [15:8] dropped, in every phase, and changes nothing else. -/
def Obligations.WriteCfgStoresWritableBits : Prop :=
  ∀ (c : SelectCtx) (data : Word) (s : State),
    decode c (hbusBytes (hbusWord 1#1 0x00#8 data)) = .ok (.wrCfg data) ∧
    exec (.wrCfg data) s = .next { s with cfg := data &&& 0xFFFF00FF#32 } ∧
    exec (.wrCfg 0x0001FF4B#32) s = .next { s with cfg := 0x0001004B#32 }

/-- R222: WR_DIM stores DATA, in every phase, and changes nothing else; WIDTH is its low half and
HEIGHT its high half. -/
def Obligations.WriteDimStoresWidthAndHeight : Prop :=
  ∀ (c : SelectCtx) (data : Word) (s : State),
    decode c (hbusBytes (hbusWord 1#1 0x04#8 data)) = .ok (.wrDim data) ∧
    exec (.wrDim data) s = .next { s with dim := data } ∧
    (latchOf s.cfg data).w = data.extractLsb' 0 16 ∧
    (latchOf s.cfg data).h = data.extractLsb' 16 16 ∧
    (latchOf s.cfg 0x0014000A#32).w = 10#16 ∧ (latchOf s.cfg 0x0014000A#32).h = 20#16

/-- R223: WR_CTRL with DATA[0] = 0 changes nothing; with DATA[0] = 1 it is START, whatever the other
bits; the write that starts a valid session sets STATUS.STATE to 1, and a BUSY one ignores it. -/
def Obligations.WriteCtrlActsOnBitZeroOnly : Prop :=
  ∀ (c : SelectCtx) (data : Word) (s : State),
    (data.getLsbD 0 = false →
      decode c (hbusBytes (hbusWord 1#1 0x08#8 data)) = .ok (.wrCtrl data) ∧
      exec (.wrCtrl data) s = .next s) ∧
    (data.getLsbD 0 = true →
      decode c (hbusBytes (hbusWord 1#1 0x08#8 data)) = .ok (.start data) ∧
      exec (.wrCtrl data) s = exec (.start data) s ∧
      exec (.start data) s = exec (.start 1#32) s ∧
      (s.phase.busy = true → exec (.start data) s = .next s) ∧
      (s.phase.busy = false → validate (latchOf s.cfg s.dim) = 0#4 →
        ∃ t, exec (.start data) s = .next t ∧ t.statusWord = 1#32))

/-- R224, R225, R226: writes to STATUS, to ERRXY and to an unmapped or misaligned offset change
nothing. -/
def Obligations.IgnoredWritesChangeNothing : Prop :=
  ∀ (c : SelectCtx) (addr : Byte) (data : Word) (s : State),
    decode c (hbusBytes (hbusWord 1#1 0x0C#8 data)) = .ok (.wrStatus data) ∧
    exec (.wrStatus data) s = .next s ∧
    decode c (hbusBytes (hbusWord 1#1 0x10#8 data)) = .ok (.wrErrxy data) ∧
    exec (.wrErrxy data) s = .next s ∧
    (addr ∉ [0x00#8, 0x04#8, 0x08#8, 0x0C#8, 0x10#8] →
      decode c (hbusBytes (hbusWord 1#1 addr data)) = .ok (.wrNone addr data)) ∧
    exec (.wrNone addr data) s = .next s

/-- R227, R228, R229, R232: a read of CFG or DIM answers the register and not L, a read of CTRL or
of an unmapped or misaligned offset answers 0, and a read changes nothing else. Bits [15:8] of CFG
read 0. -/
def Obligations.ConfigurationReadsAnswerTheRegister : Prop :=
  ∀ (c : SelectCtx) (addr : Byte) (data : Word) (s : State),
    decode c (hbusBytes (hbusWord 0#1 0x00#8 data)) = .ok .rdCfg ∧
    exec .rdCfg s = .next { s with rdata := some s.cfg } ∧
    (s.Inv → s.cfg.extractLsb' 8 8 = 0#8) ∧
    exec .rdCfg State.reset = .next { State.reset with rdata := some 0x00010000#32 } ∧
    decode c (hbusBytes (hbusWord 0#1 0x04#8 data)) = .ok .rdDim ∧
    exec .rdDim s = .next { s with rdata := some s.dim } ∧
    exec .rdDim State.reset = .next { State.reset with rdata := some 0#32 } ∧
    decode c (hbusBytes (hbusWord 0#1 0x08#8 data)) = .ok .rdCtrl ∧
    exec .rdCtrl s = .next { s with rdata := some 0#32 } ∧
    (addr ∉ [0x00#8, 0x04#8, 0x08#8, 0x0C#8, 0x10#8] →
      decode c (hbusBytes (hbusWord 0#1 addr data)) = .ok (.rdNone addr)) ∧
    exec (.rdNone addr) s = .next { s with rdata := some 0#32 }

/-- R230, R231: a read of STATUS answers (cause << 4) | (err << 2) | STATE(phase), 1 during a
session; a read of ERRXY answers errxy, 0 unless the session ended in SourceUnavailable; neither
changes anything else. -/
def Obligations.StatusReadsAnswerTheReport : Prop :=
  ∀ (c : SelectCtx) (data : Word) (s : State),
    decode c (hbusBytes (hbusWord 0#1 0x0C#8 data)) = .ok .rdStatus ∧
    exec .rdStatus s =
      .next { s with
        rdata := some ((s.cause.setWidth 32 <<< 4) ||| (s.err.setWidth 32 <<< 2) |||
          (match s.phase with
           | .idle => 0#32
           | .hdr | .body | .fin => 1#32
           | .done => 2#32
           | .error => 3#32)) } ∧
    (s.Inv → s.phase.busy = true → exec .rdStatus s = .next { s with rdata := some 1#32 }) ∧
    (∀ u, exec .rdStatus (s.raise (.invalidConfiguration 3#4)) = .next u →
      u.rdata = some 0x37#32) ∧
    decode c (hbusBytes (hbusWord 0#1 0x10#8 data)) = .ok .rdErrxy ∧
    exec .rdErrxy s = .next { s with rdata := some s.errxy } ∧
    (s.Inv → s.err ≠ 2#2 → exec .rdErrxy s = .next { s with rdata := some 0#32 }) ∧
    (∀ u, exec .rdErrxy (s.raise (.sourceUnavailable 3#16 2#16)) = .next u →
      u.rdata = some 0x00020003#32)

/-- R220: the decode of an HBUS word is total on WE and ADDR: a misaligned or unmapped offset gives
WR_NONE or RD_NONE, and each mapped offset its own operation. -/
def Obligations.HostDecodeIsTotal : Prop :=
  ∀ (c : SelectCtx) (w : BitVec 41),
    let we := w.extractLsb' 40 1
    let addr := w.extractLsb' 32 8
    let data := w.extractLsb' 0 32
    let got := decode c (hbusBytes w)
    (addr.extractLsb' 0 2 ≠ 0#2 ∨ addr ∉ [0x00#8, 0x04#8, 0x08#8, 0x0C#8, 0x10#8] →
      got = if we = 1#1 then .ok (.wrNone addr data) else .ok (.rdNone addr)) ∧
    (addr = 0x00#8 → got = if we = 1#1 then .ok (.wrCfg data) else .ok .rdCfg) ∧
    (addr = 0x04#8 → got = if we = 1#1 then .ok (.wrDim data) else .ok .rdDim) ∧
    (addr = 0x08#8 →
      got =
        if we = 1#1 then
          (if data.getLsbD 0 = true then .ok (.start data) else .ok (.wrCtrl data))
        else .ok .rdCtrl) ∧
    (addr = 0x0C#8 → got = if we = 1#1 then .ok (.wrStatus data) else .ok .rdStatus) ∧
    (addr = 0x10#8 → got = if we = 1#1 then .ok (.wrErrxy data) else .ok .rdErrxy)

/-! ## START, validation and the header -/

/-- R150: START, ignored while BUSY; otherwise it latches CFG and DIM into L, empties `out`, resets
the producer, the cursor and the error report, and goes to HDR, or to ERROR with the cause. -/
def Obligations.StartLatchesValidatesAndBegins : Prop :=
  ∀ (c : SelectCtx) (data : Word) (s : State),
    let L : Latched :=
      { fmt := s.cfg.extractLsb' 0 3, hdrw := s.cfg.extractLsb' 3 1,
        orient := s.cfg.extractLsb' 4 2, rle := s.cfg.extractLsb' 6 1,
        mono := s.cfg.extractLsb' 7 1, rows := s.cfg.extractLsb' 16 16,
        w := s.dim.extractLsb' 0 16, h := s.dim.extractLsb' 16 16 }
    (data.getLsbD 0 = true →
      decode c (hbusBytes (hbusWord 1#1 0x08#8 data)) = .ok (.start data)) ∧
    (s.phase = .hdr ∨ s.phase = .body ∨ s.phase = .fin → exec (.start data) s = .next s) ∧
    (s.phase = .idle ∨ s.phase = .done ∨ s.phase = .error →
      (validate L = 0#4 →
        exec (.start data) s =
          .next { s with L := L, out := [], rmode := .literal, prev := none, count := 0#8,
                         k := 0#32, err := 0#2, cause := 0#4, errxy := 0#32, phase := .hdr }) ∧
      (validate L ≠ 0#4 →
        exec (.start data) s =
          .next { s with L := L, out := [], rmode := .literal, prev := none, count := 0#8,
                         k := 0#32, err := 1#2, cause := validate L, errxy := 0#32,
                         phase := .error })) ∧
    (s.phase = .idle → s.cfg = 0x0001004B#32 → s.dim = 0x0014000A#32 →
      ∃ t, exec (.start data) s = .next t ∧ t.phase = .hdr ∧ t.statusWord = 1#32 ∧ t.out = [])

/-- R151, R242: validate returns the first cause that holds, in the order 1 to 5, and 0 when none
does; ROWS counts for FMT 0 alone, an empty image is valid, and with FMT 0 and HEIGHT 0 every
ROWS ≥ 1 is. -/
def Obligations.ValidationReportsTheFirstCause : Prop :=
  ∀ L : Latched,
    let c1 := L.fmt = 5#3 ∨ L.fmt = 6#3 ∨ L.fmt = 7#3
    let c2 := L.orient = 3#2
    let c3 := L.orient = 2#2 ∧ L.fmt ≠ 2#3
    let c4 := L.fmt = 0#3 ∧ L.rows = 0#16
    let c5 := L.fmt = 0#3 ∧ L.h.toNat % L.rows.toNat ≠ 0
    (validate L = 1#4 ↔ c1) ∧
    (validate L = 2#4 ↔ ¬c1 ∧ c2) ∧
    (validate L = 3#4 ↔ ¬c1 ∧ ¬c2 ∧ c3) ∧
    (validate L = 4#4 ↔ ¬c1 ∧ ¬c2 ∧ ¬c3 ∧ c4) ∧
    (validate L = 5#4 ↔ ¬c1 ∧ ¬c2 ∧ ¬c3 ∧ ¬c4 ∧ c5) ∧
    (validate L = 0#4 ↔ ¬c1 ∧ ¬c2 ∧ ¬c3 ∧ ¬c4 ∧ ¬c5) ∧
    (∀ rows, L.fmt ≠ 0#3 → validate { L with rows := rows } = validate L) ∧
    (∀ w, validate { L with w := w } = validate L) ∧
    (L.fmt = 0#3 → L.orient = 0#2 ∨ L.orient = 1#2 → L.h = 0#16 → L.rows ≠ 0#16 →
      validate L = 0#4)

/-- R96, R97 against R151: the CFGW word decodes to the illegal word of the cause validate reports,
or to the session operation L selects. -/
def Obligations.DecodedWordAgreesWithValidation : Prop :=
  ∀ (L : Latched) (rle : BitVec 1),
    invalidCause (decodeCfgw ⟨rle, L.h⟩ L.toCfgFields) = validate L ∧
    operationOf (decodeCfgw ⟨rle, L.h⟩ L.toCfgFields) = sessionOp L

/-- R96: the session operation by FMT and ORIENT, with the two value conditions of 1BIT; HDRW, RLE
and MONO take part in no selection. -/
def Obligations.SessionOperationIsSelectedByTheTable : Prop :=
  ∀ L : Latched,
    let upright := L.orient = 0#2 ∨ L.orient = 1#2
    (sessionOp L = some .enc1Bit ↔
      L.fmt = 0#3 ∧ upright ∧ L.rows ≠ 0#16 ∧ L.h.toNat % L.rows.toNat = 0) ∧
    (sessionOp L = some .enc4Bit ↔ L.fmt = 1#3 ∧ upright) ∧
    (sessionOp L = some .enc8Bit ↔ L.fmt = 2#3 ∧ upright) ∧
    (sessionOp L = some .enc8BitCol ↔ L.fmt = 2#3 ∧ L.orient = 2#2) ∧
    (sessionOp L = some .encRgb565 ↔ L.fmt = 3#3 ∧ upright) ∧
    (sessionOp L = some .encArgb4444 ↔ L.fmt = 4#3 ∧ upright) ∧
    (∀ hdrw rle mono,
      sessionOp { L with hdrw := hdrw, rle := rle, mono := mono } = sessionOp L)

/-- Each illegal CFGW word, run alone, raises InvalidConfiguration with its cause: phase ERROR, ERR 1,
CAUSE the code, and nothing else changes. The causes are R97's and the three writes R240's. That a word
run alone raises, in any phase and with `out` left as it is, is the model's choice (log entry 13): the
spec has START alone raise it. -/
def Obligations.IllegalWordsRaiseTheirCause : Prop :=
  ∀ (f : CfgFields) (s : State),
    let raised (c : BitVec 4) : State := { s with phase := .error, err := 1#2, cause := c }
    exec (.invalidFmt5 f) s = .next (raised 1#4) ∧
    exec (.invalidFmt67 f) s = .next (raised 1#4) ∧
    exec (.invalidOrient f) s = .next (raised 2#4) ∧
    exec (.invalid270Bit1 f) s = .next (raised 3#4) ∧
    exec (.invalid270Bit4 f) s = .next (raised 3#4) ∧
    exec (.invalid270Rgb565 f) s = .next (raised 3#4) ∧
    exec (.invalid270Argb4444 f) s = .next (raised 3#4) ∧
    exec (.invalidRows0 f) s = .next (raised 4#4) ∧
    exec (.invalidRowsDiv f) s = .next (raised 5#4)

/-- R152: a START that raises InvalidConfiguration leaves `out` empty, puts no byte on the port, has
no artifact, and the ENGINE takes no step for that session: its turn changes nothing. -/
def Obligations.NoByteBeforeValidation : Prop :=
  ∀ (data : Word) (s : State),
    s.phase.busy = false → validate (latchOf s.cfg s.dim) ≠ 0#4 →
    ∃ t, exec (.start data) s = .next t ∧ t.out = [] ∧ t.port = s.port ∧ t.artifact = none ∧
      step { t with schedule := [] } = .next { t with schedule := [] }

/-- R153, R154, R155: the tag and the size header of a valid configuration. -/
def Obligations.TagAndSizeHeader : Prop :=
  ∀ (L : Latched) (op : SessionOp), sessionOp L = some op →
    let hh : Nat := if L.fmt = 0#3 then L.h.toNat / L.rows.toNat else L.h.toNat
    (L.fmt = 0#3 ∨ L.fmt = 1#3 → tagBytes op = []) ∧
    (L.fmt = 2#3 ∨ L.fmt = 3#3 → tagBytes op = [0x00#8]) ∧
    (L.fmt = 4#3 → tagBytes op = [0x01#8]) ∧
    (L.hdrw = 0#1 →
      (sizeBytes op L).map BitVec.toNat = [L.w.toNat % 256, hh % 256]) ∧
    (L.hdrw = 1#1 →
      (sizeBytes op L).map BitVec.toNat =
        [L.w.toNat % 256, L.w.toNat / 256, hh % 256, hh / 256])

/-- R156: STEP.HDR appends the tag and then the size header past the producer, two to five bytes,
and goes to BODY, or to FIN for an empty body. -/
def Obligations.HeaderStepAppendsTagThenSize : Prop :=
  ∀ (c : SelectCtx) (s : State) (op : SessionOp), sessionOp s.L = some op →
    let bytes := tagBytes op ++ sizeBytes op s.L
    decode c [1#8] = .ok .stepHdr ∧
    exec .stepHdr s =
      .next { s with out := s.out ++ bytes, port := s.port ++ bytes,
                     phase := if unitCount op s.L = 0 then .fin else .body } ∧
    2 ≤ bytes.length ∧ bytes.length ≤ 5

/-! ## The body and the flush -/

/-- R157, raw and RLE: when every read of unit k is answered, STEP.UNIT pushes the unit's bytes
through the selected producer, moves the cursor on by 1 and, after the last unit, goes to FIN.
Nothing else changes but the read port. -/
def Obligations.UnitStepPushesTheUnit : Prop :=
  ∀ (s : State) (op : SessionOp) (cs : List Color) (px : List PixelEntry),
    let coords := unitCoords op s.L.orient s.L s.k.toNat
    let bytes := packUnit op s.L.mono cs
    sessionOp s.L = some op → s.k.toNat < unitCount op s.L →
    s.readAll coords = .colors cs { s with reads := s.reads ++ coords, pixels := px } →
    (s.L.rle = 0#1 →
      exec .stepUnit s =
        .next { s with reads := s.reads ++ coords, pixels := px,
                       out := s.out ++ bytes, port := s.port ++ bytes, k := s.k + 1#32,
                       phase := if s.k.toNat + 1 = unitCount op s.L then .fin else s.phase }) ∧
    (s.L.rle = 1#1 →
      exec .stepUnit s =
        .next { s with reads := s.reads ++ coords, pixels := px,
                       out := s.out ++ (rlePushAll s.rle bytes).2,
                       port := s.port ++ (rlePushAll s.rle bytes).2,
                       rmode := (rlePushAll s.rle bytes).1.rmode,
                       prev := (rlePushAll s.rle bytes).1.prev,
                       count := (rlePushAll s.rle bytes).1.count, k := s.k + 1#32,
                       phase := if s.k.toNat + 1 = unitCount op s.L then .fin else s.phase })

/-- R194, R243, R244: the first read of the unit that fails ends STEP.UNIT: phase ERROR, ERR 2,
ERRXY its physical coordinate; no later read is issued, no byte is pushed, no FINISH is done, and
the cursor, `out`, the producer and CAUSE keep their values. -/
def Obligations.FirstFailedReadEndsTheUnit : Prop :=
  ∀ (s u : State) (op : SessionOp) (before after : List Coord) (x y : Half) (cs : List Color),
    sessionOp s.L = some op → s.k.toNat < unitCount op s.L →
    unitCoords op s.L.orient s.L s.k.toNat = before ++ (x, y) :: after →
    s.readAll before = .colors cs u → u.sourceAnswer x y = .fail →
    exec .stepUnit s =
      .next { s with phase := .error, err := 2#2, errxy := (y.setWidth 32 <<< 16) ||| x.setWidth 32,
                     reads := s.reads ++ before ++ [(x, y)],
                     pixels := u.pixels.eraseP (fun e => e.x == x && e.y == y) }

/-- R158: STEP.FIN does FINISH and goes to DONE: raw appends nothing, RLE closes an open run with
its count and returns to the START state. The flush happens once: afterwards the ENGINE has no
step. -/
def Obligations.FinStepFlushesOnce : Prop :=
  ∀ (c : SelectCtx) (s : State),
    decode c [3#8] = .ok .stepFin ∧
    (s.L.rle = 0#1 → exec .stepFin s = .next { s with phase := .done }) ∧
    (s.L.rle = 1#1 → s.rmode = .literal →
      exec .stepFin s =
        .next { s with rmode := .literal, prev := none, count := 0#8, phase := .done }) ∧
    (s.L.rle = 1#1 → s.rmode = .run →
      exec .stepFin s =
        .next { s with out := s.out ++ [s.count], port := s.port ++ [s.count],
                       rmode := .literal, prev := none, count := 0#8, phase := .done }) ∧
    (∀ t, exec .stepFin s = .next t →
      stateCode t.phase = 2#2 ∧ step { t with schedule := [] } = .next { t with schedule := [] })

/-- Where the two engine steps stop: outside a session, on a state no session reaches. The stops are
the model's own (log entries 9 and 10). -/
def Obligations.EngineStepsStopOutsideASession : Prop :=
  ∀ s : State,
    (sessionOp s.L = none →
      exec .stepHdr s = .fault .noSessionOperation ∧
      exec .stepUnit s = .fault .noSessionOperation) ∧
    (∀ op, sessionOp s.L = some op → unitCount op s.L ≤ s.k.toNat →
      exec .stepUnit s = .fault .noSuchUnit)

/-- The frame of the three engine steps: CFG, DIM, L, CAUSE, RDATA, the unit lane and the schedule
never change; `out` and the output port only grow, by the same bytes; the read log only grows; the
cursor stays or moves on by 1; the error report changes only with phase ERROR. That RDATA, the unit
lane and the schedule are state at all, and that an engine step leaves them, is the model's choice (log
entries 3, 4 and 1); the rest is what R156 to R158 list as written. -/
def Obligations.EngineStepFrame : Prop :=
  ∀ (i : Instr) (s t : State), i ∈ [.stepHdr, .stepUnit, .stepFin] → exec i s = .next t →
    t.cfg = s.cfg ∧ t.dim = s.dim ∧ t.L = s.L ∧ t.cause = s.cause ∧ t.rdata = s.rdata ∧
    t.unitBytes = s.unitBytes ∧ t.schedule = s.schedule ∧
    (∃ bytes, t.out = s.out ++ bytes ∧ t.port = s.port ++ bytes) ∧
    (∃ coords, t.reads = s.reads ++ coords) ∧
    (t.k = s.k ∨ t.k = s.k + 1#32) ∧
    ((t.err = s.err ∧ t.errxy = s.errxy) ∨ t.phase = .error)

/-! ## The byte producer -/

/-- R121, R122: IDLE changes nothing; APPEND appends its byte past the producer, in either mode. -/
def Obligations.IdleAndAppend : Prop :=
  ∀ (c : SelectCtx) (b : Byte) (s : State),
    decode c (pbusBytes (pbusWord 0#2 b)) = .ok .idle ∧ exec .idle s = .next s ∧
    decode c (pbusBytes (pbusWord 1#2 b)) = .ok (.append b) ∧
    exec (.append b) s = .next { s with out := s.out ++ [b], port := s.port ++ [b] }

/-- R123, R125: PUSH raw appends its byte, FINISH raw does nothing; the RLE state keeps its
values. -/
def Obligations.RawPushAndFinish : Prop :=
  ∀ (c : SelectCtx) (b : Byte) (s : State), c.rle = 0#1 →
    decode c (pbusBytes (pbusWord 2#2 b)) = .ok (.pushRaw b) ∧
    exec (.pushRaw b) s = .next { s with out := s.out ++ [b], port := s.port ++ [b] } ∧
    decode c (pbusBytes (pbusWord 3#2 b)) = .ok .finishRaw ∧
    exec .finishRaw s = .next s

/-- R124: PUSH RLE, branch by branch of its state machine. In RUN mode p is the byte prev holds. -/
def Obligations.RlePushFollowsTheStateMachine : Prop :=
  ∀ (c : SelectCtx) (b : Byte) (s : State), c.rle = 1#1 →
    decode c (pbusBytes (pbusWord 2#2 b)) = .ok (.pushRle b) ∧
    (s.rmode = .literal → s.prev = some b →
      exec (.pushRle b) s =
        .next { s with out := s.out ++ [b], port := s.port ++ [b], rmode := .run,
                       count := 0#8 }) ∧
    (s.rmode = .literal → s.prev ≠ some b →
      exec (.pushRle b) s =
        .next { s with out := s.out ++ [b], port := s.port ++ [b], prev := some b }) ∧
    (s.rmode = .run → s.prev = some b → s.count.toNat < 254 →
      exec (.pushRle b) s = .next { s with count := s.count + 1#8 }) ∧
    (s.rmode = .run → s.prev = some b → s.count.toNat = 254 →
      exec (.pushRle b) s =
        .next { s with out := s.out ++ [255#8], port := s.port ++ [255#8], count := 255#8,
                       prev := none, rmode := .literal }) ∧
    (∀ p, s.rmode = .run → s.prev = some p → b ≠ p →
      exec (.pushRle b) s =
        .next { s with out := s.out ++ [s.count, b], port := s.port ++ [s.count, b],
                       prev := some b, rmode := .literal })

/-- R126: FINISH RLE closes an open run with its count and returns to the START state; in LITERAL it
appends nothing; a second FINISH appends nothing. -/
def Obligations.RleFinishClosesTheRun : Prop :=
  ∀ (c : SelectCtx) (b : Byte) (s : State), c.rle = 1#1 →
    decode c (pbusBytes (pbusWord 3#2 b)) = .ok .finishRle ∧
    (s.rmode = .run →
      exec .finishRle s =
        .next { s with out := s.out ++ [s.count], port := s.port ++ [s.count],
                       rmode := .literal, prev := none, count := 0#8 }) ∧
    (s.rmode = .literal →
      exec .finishRle s =
        .next { s with rmode := .literal, prev := none, count := 0#8 }) ∧
    (∀ t, exec .finishRle s = .next t → exec .finishRle t = .next t)

/-- R120, R133 and the definition of encodeRLE: the producer driven alone over PBUS from its START
state, PUSH of each byte and then FINISH, appends the bytes themselves in raw mode and encodeRLE of
them in RLE mode. -/
def Obligations.ProducerAloneEncodesItsStream : Prop :=
  ∀ (s : State) (bs : List Byte), s.rle = rleStart →
    s.schedule = bs.map (fun b => .producer (pbusWord 2#2 b)) ++ [.producer (pbusWord 3#2 0#8)] →
    ∃ t : State, Host.Core.run Sys2Proof.core (bs.length + 1) s = .next t ∧ t.rle = rleStart ∧
      t.phase = s.phase ∧ t.L = s.L ∧
      (s.L.rle = 0#1 → t.out = s.out ++ bs ∧ t.port = s.port ++ bs) ∧
      (s.L.rle = 1#1 → t.out = s.out ++ encodeRle bs ∧ t.port = s.port ++ encodeRle bs)

/-- R128: a maximal run of m ≥ 2 bytes v, entered from LITERAL with prev ≠ Some v, is written as
(m - 1) / 257 segments [v, v, 255] and a tail of r bytes, [v] for r = 1 and [v, v, r - 2] for r ≥ 2,
whether the run ends at FINISH or at a different byte b, which then stands as a literal. -/
def Obligations.RunsAreWrittenInSegments : Prop :=
  ∀ (r : RleState) (v : Byte) (m : Nat), r.rmode = .literal → r.prev ≠ some v → 2 ≤ m →
    let q := (m - 1) / 257
    let rest := m - 257 * q
    let tail : List Byte := if rest = 1 then [v] else [v, v, BitVec.ofNat 8 (rest - 2)]
    let written := (List.replicate q [v, v, 255#8]).flatten ++ tail
    1 ≤ rest ∧ rest ≤ 257 ∧
    rleEncodeFrom r (List.replicate m v) = written ∧
    (∀ b, b ≠ v →
      (rlePushAll r (List.replicate m v ++ [b])).2 = written ++ [b] ∧
      (rlePushAll r (List.replicate m v ++ [b])).1.rmode = .literal ∧
      (rlePushAll r (List.replicate m v ++ [b])).1.prev = some b)

/-- R131: a stream in which no byte equals the byte before it is unchanged by the encoder. -/
def Obligations.NoRepeatsNoChange : Prop :=
  ∀ bs : List Byte, bs.IsChain (· ≠ ·) → encodeRle bs = bs

/-- R132: the encoded length is at most |s| + floor(|s| / 2), and pairs of equal bytes, neighbouring
pairs different, reach the bound. -/
def Obligations.EncodedLengthIsBounded : Prop :=
  (∀ bs : List Byte, (encodeRle bs).length ≤ bs.length + bs.length / 2) ∧
  (∀ vs : List Byte, vs.IsChain (· ≠ ·) →
    let bs := vs.flatMap fun v => [v, v]
    (encodeRle bs).length = bs.length + bs.length / 2)

/-- R137, R138: the reference inverse gives back every stream. -/
def Obligations.EncodedStreamRoundTrips : Prop :=
  ∀ bs : List Byte, decodeRle (encodeRle bs) = some bs

/-! ## Pixel formats and traversal -/

/-- R181: the orientation mapping: 0° the identity, 180° both axes mirrored, the canvas onto
itself; twice is the identity. -/
def Obligations.OrientationMirrorsBothAxes : Prop :=
  ∀ (L : Latched) (x y : Nat), x < L.w.toNat → y < L.h.toNat →
    phys 0#2 L x y = (x, y) ∧
    phys 1#2 L x y = (L.w.toNat - 1 - x, L.h.toNat - 1 - y) ∧
    phys 2#2 L x y = (x, y) ∧
    (phys 1#2 L x y).1 < L.w.toNat ∧ (phys 1#2 L x y).2 < L.h.toNat ∧
    phys 1#2 L (phys 1#2 L x y).1 (phys 1#2 L x y).2 = (x, y)

/-- R182, R183: over a session every pixel of the canvas is read by exactly one unit k < N(L), and
once there. -/
def Obligations.EveryPixelIsReadOnce : Prop :=
  ∀ (op : SessionOp) (orient : BitVec 2) (L : Latched) (x y : Half),
    x.toNat < L.w.toNat → y.toNat < L.h.toNat →
    ∃ k, k < unitCount op L ∧ (unitCoords op orient L k).count (x, y) = 1 ∧
      ∀ j, j < unitCount op L → j ≠ k → (x, y) ∉ unitCoords op orient L j

/-- R62: PixelRead is issued only at coordinates inside the pixel source space, by any step from any
state. -/
def Obligations.ReadsStayInsideTheCanvas : Prop :=
  ∀ s t : State, step s = .next t →
    ∃ coords, t.reads = s.reads ++ coords ∧
      ∀ p ∈ coords, p.1.toNat < s.L.w.toNat ∧ p.2.toNat < s.L.h.toNat

/-- R184: the "on" predicate: R ≠ 0 for a monochrome source, R = G = B = 0 for a general raster,
alpha never counting. -/
def Obligations.OnPredicate : Prop :=
  ∀ c : Color,
    (pixelOn 1#1 c = true ↔ c.r ≠ 0#8) ∧
    (pixelOn 0#1 c = true ↔ c.r = 0#8 ∧ c.g = 0#8 ∧ c.b = 0#8) ∧
    (∀ mono a, pixelOn mono { c with a := a } = pixelOn mono c)

/-- R185: ENC.1BIT on unit k reads the in-canvas rows of its band from the top and returns one byte
whose bit z is 1 when row y0 + z is in the canvas and on; the first read that fails raises
SourceUnavailable. That
an operation run alone raises is the model's choice (log entry 14), and so is where its bytes go (log
entry 4). -/
def Obligations.OneBitUnitIsItsBand : Prop :=
  ∀ (f : CfgFields) (s : State),
    let w := s.L.w.toNat
    let h := s.L.h.toNat
    let x := s.k.toNat % w
    let y0 := 8 * (s.k.toNat / w)
    let rows := (List.range 8).filter fun z => y0 + z < h
    let coords : List Coord := rows.map fun z =>
      if f.orient = 1#2 then (BitVec.ofNat 16 (w - 1 - x), BitVec.ofNat 16 (h - 1 - (y0 + z)))
      else (BitVec.ofNat 16 x, BitVec.ofNat 16 (y0 + z))
    s.k.toNat < w * ((h + 7) / 8) →
    (∀ (cs : List Color) (t : State), s.readAll coords = .colors cs t →
      ∃ v : Byte, exec (.enc1Bit f) s = .next { t with unitBytes := [v] } ∧
        ∀ z, z < 8 →
          (y0 + z < h → ∃ c, cs[z]? = some c ∧ v.getLsbD z = pixelOn f.mono c) ∧
          (h ≤ y0 + z → v.getLsbD z = false)) ∧
    (∀ (before after : List Coord) (px py : Half) (cs : List Color) (u : State),
      coords = before ++ (px, py) :: after → s.readAll before = .colors cs u →
      u.sourceAnswer px py = .fail →
      exec (.enc1Bit f) s =
        .next { u.sendRead px py with phase := .error, err := 2#2, errxy := errxyOf px py })

/-- R187, R188: ENC.4BIT on unit k reads the top pixel, then the bottom one when it is in the canvas
(else its grey is 255), and returns ~((bot & 0xF0) | (top >> 4)) & 0xFF, its high nibble 0 without
a bottom; a read that fails, the top one or then the bottom one, raises SourceUnavailable. That
an operation run alone raises is the model's choice (log entry 14), and so is where its bytes go (log
entry 4). -/
def Obligations.FourBitUnitIsItsPair : Prop :=
  ∀ (f : CfgFields) (s : State),
    let w := s.L.w.toNat
    let h := s.L.h.toNat
    let x := s.k.toNat % w
    let y := 2 * (s.k.toNat / w)
    let at_ (row : Nat) : Coord :=
      if f.orient = 1#2 then (BitVec.ofNat 16 (w - 1 - x), BitVec.ofNat 16 (h - 1 - row))
      else (BitVec.ofNat 16 x, BitVec.ofNat 16 row)
    let s1 := s.sendRead (at_ y).1 (at_ y).2
    let s2 := s1.sendRead (at_ (y + 1)).1 (at_ (y + 1)).2
    let byte (t b : Byte) : Byte := ~~~((b &&& 0xF0#8) ||| (t >>> 4))
    s.k.toNat < w * ((h + 1) / 2) →
    (∀ top bot, s.sourceAnswer (at_ y).1 (at_ y).2 = .ok top → y + 1 < h →
      s1.sourceAnswer (at_ (y + 1)).1 (at_ (y + 1)).2 = .ok bot →
      exec (.enc4Bit f) s =
        .next { s2 with unitBytes := [byte (Config.gray top) (Config.gray bot)] }) ∧
    (∀ top, s.sourceAnswer (at_ y).1 (at_ y).2 = .ok top → h ≤ y + 1 →
      exec (.enc4Bit f) s = .next { s1 with unitBytes := [byte (Config.gray top) 255#8] } ∧
      (byte (Config.gray top) 255#8).extractLsb' 4 4 = 0#4) ∧
    (s.sourceAnswer (at_ y).1 (at_ y).2 = .fail →
      exec (.enc4Bit f) s =
        .next { s1 with phase := .error, err := 2#2, errxy := errxyOf (at_ y).1 (at_ y).2 }) ∧
    (∀ top, s.sourceAnswer (at_ y).1 (at_ y).2 = .ok top → y + 1 < h →
      s1.sourceAnswer (at_ (y + 1)).1 (at_ (y + 1)).2 = .fail →
      exec (.enc4Bit f) s =
        .next { s2 with phase := .error, err := 2#2,
                        errxy := errxyOf (at_ (y + 1)).1 (at_ (y + 1)).2 })

/-- R189, R190: ENC.8BIT reads one pixel, row-major and under the orientation; ENC.8BIT.COL reads
one, column-major and unmapped; each returns 255 - grey, or raises SourceUnavailable when its read
fails. That
an operation run alone raises is the model's choice (log entry 14), and so is where its bytes go (log
entry 4). -/
def Obligations.EightBitUnitIsOnePixel : Prop :=
  ∀ (f : CfgFields) (s : State),
    let w := s.L.w.toNat
    let h := s.L.h.toNat
    let x := s.k.toNat % w
    let y := s.k.toNat / w
    let row : Coord :=
      if f.orient = 1#2 then (BitVec.ofNat 16 (w - 1 - x), BitVec.ofNat 16 (h - 1 - y))
      else (BitVec.ofNat 16 x, BitVec.ofNat 16 y)
    let col : Coord := (BitVec.ofNat 16 (s.k.toNat / h), BitVec.ofNat 16 (s.k.toNat % h))
    s.k.toNat < w * h →
    (∀ c, s.sourceAnswer row.1 row.2 = .ok c →
      exec (.enc8Bit f) s =
        .next { s.sendRead row.1 row.2 with unitBytes := [255#8 - Config.gray c] }) ∧
    (s.sourceAnswer row.1 row.2 = .fail →
      exec (.enc8Bit f) s =
        .next { s.sendRead row.1 row.2 with
                  phase := .error, err := 2#2, errxy := errxyOf row.1 row.2 }) ∧
    (∀ c, s.sourceAnswer col.1 col.2 = .ok c →
      exec (.enc8BitCol f) s =
        .next { s.sendRead col.1 col.2 with unitBytes := [255#8 - Config.gray c] }) ∧
    (s.sourceAnswer col.1 col.2 = .fail →
      exec (.enc8BitCol f) s =
        .next { s.sendRead col.1 col.2 with
                  phase := .error, err := 2#2, errxy := errxyOf col.1 col.2 })

/-- R191, R192, R193: ENC.RGB565 and ENC.ARGB4444 read one pixel, row-major and under the
orientation, and return the packed value's two bytes, low byte first, or raise SourceUnavailable
when the read fails. That
an operation run alone raises is the model's choice (log entry 14), and so is where its bytes go (log
entry 4). -/
def Obligations.SixteenBitUnitIsOnePixel : Prop :=
  ∀ (f : CfgFields) (s : State),
    let w := s.L.w.toNat
    let h := s.L.h.toNat
    let x := s.k.toNat % w
    let y := s.k.toNat / w
    let at_ : Coord :=
      if f.orient = 1#2 then (BitVec.ofNat 16 (w - 1 - x), BitVec.ofNat 16 (h - 1 - y))
      else (BitVec.ofNat 16 x, BitVec.ofNat 16 y)
    let rgb (c : Color) := c.r.toNat / 8 * 2048 + c.g.toNat / 4 * 32 + c.b.toNat / 8
    let argb (c : Color) :=
      c.a.toNat / 16 * 4096 + c.r.toNat / 16 * 256 + c.g.toNat / 16 * 16 + c.b.toNat / 16
    let bytes (v : Nat) : List Byte := [BitVec.ofNat 8 (v % 256), BitVec.ofNat 8 (v / 256)]
    let failed : State :=
      { s.sendRead at_.1 at_.2 with
          phase := .error, err := 2#2, errxy := errxyOf at_.1 at_.2 }
    s.k.toNat < w * h →
    (∀ c, s.sourceAnswer at_.1 at_.2 = .ok c →
      exec (.encRgb565 f) s = .next { s.sendRead at_.1 at_.2 with unitBytes := bytes (rgb c) } ∧
      exec (.encArgb4444 f) s =
        .next { s.sendRead at_.1 at_.2 with unitBytes := bytes (argb c) }) ∧
    (s.sourceAnswer at_.1 at_.2 = .fail →
      exec (.encRgb565 f) s = .next failed ∧ exec (.encArgb4444 f) s = .next failed)

/-- Where a session operation run alone raises and where it stops: its first failed read raises
SourceUnavailable and leaves the unit lane and CAUSE alone; without a unit k it stops (the model's own
stop, log entry 9). Which read raises, and that no later one is issued, is R180 and R194; that the
operation raises outside STEP.UNIT, in any phase, is the model's choice (log entry 14), since R243 has
STEP.UNIT alone raise it. -/
def Obligations.SessionOperationRaisesOnFailedRead : Prop :=
  ∀ (op : SessionOp) (i : Instr) (f : CfgFields) (s u : State) (before after : List Coord)
    (x y : Half) (cs : List Color),
    i ∈ [.enc1Bit f, .enc4Bit f, .enc8Bit f, .enc8BitCol f, .encRgb565 f, .encArgb4444 f] →
    operationOf i = some op →
    (s.k.toNat < unitCount op s.L →
      unitCoords op f.orient s.L s.k.toNat = before ++ (x, y) :: after →
      s.readAll before = .colors cs u → u.sourceAnswer x y = .fail →
      exec i s =
        .next { s with phase := .error, err := 2#2, errxy := (y.setWidth 32 <<< 16) ||| x.setWidth 32,
                       reads := s.reads ++ before ++ [(x, y)],
                       pixels := u.pixels.eraseP (fun e => e.x == x && e.y == y) }) ∧
    (unitCount op s.L ≤ s.k.toNat → exec i s = .fault .noSuchUnit)

/-- R196: the packed lanes of every format, bit by bit. -/
def Obligations.PackedLanes : Prop :=
  (∀ (mono : BitVec 1) (cs : List Color) (z : Nat), z < 8 →
    (packBand mono 0 cs).getLsbD z = (match cs[z]? with
      | some c => pixelOn mono c
      | none => false)) ∧
  (∀ top bot : Byte,
    (packPair top bot).extractLsb' 0 4 = ~~~(top.extractLsb' 4 4) ∧
    (packPair top bot).extractLsb' 4 4 = ~~~(bot.extractLsb' 4 4) ∧
    (packPair top 255#8).extractLsb' 4 4 = 0#4) ∧
  (∀ g : Byte, packGray g = ~~~g) ∧
  (∀ c : Color,
    (packRgb565 c).extractLsb' 11 5 = c.r.extractLsb' 3 5 ∧
    (packRgb565 c).extractLsb' 5 6 = c.g.extractLsb' 2 6 ∧
    (packRgb565 c).extractLsb' 0 5 = c.b.extractLsb' 3 5) ∧
  (∀ c : Color,
    (packArgb4444 c).extractLsb' 12 4 = c.a.extractLsb' 4 4 ∧
    (packArgb4444 c).extractLsb' 8 4 = c.r.extractLsb' 4 4 ∧
    (packArgb4444 c).extractLsb' 4 4 = c.g.extractLsb' 4 4 ∧
    (packArgb4444 c).extractLsb' 0 4 = c.b.extractLsb' 4 4) ∧
  (∀ v : BitVec 16, lowHigh v = [v.extractLsb' 0 8, v.extractLsb' 8 8])

/-- R198: under 180°, logical row 0 is physical row H - 1; a partial 1BIT band is the last one and
holds the physical top rows, its off-canvas bits the high ones; the 4BIT pair without a bottom is the
last and reads physical row 0. -/
def Obligations.HalfTurnPartialUnits : Prop :=
  ∀ (L : Latched) (x : Nat), x < L.w.toNat → 0 < L.h.toNat →
    (phys 1#2 L x 0).2 = L.h.toNat - 1 ∧
    (∀ n, n = L.h.toNat % 8 → 0 < n →
      unitCount .enc1Bit L = L.w.toNat * (L.h.toNat / 8) + L.w.toNat ∧
      unitCoords .enc1Bit 1#2 L (L.w.toNat * (L.h.toNat / 8) + x) =
        ((List.range n).map fun z =>
          (BitVec.ofNat 16 (L.w.toNat - 1 - x), BitVec.ofNat 16 (n - 1 - z))) ∧
      ∀ (mono : BitVec 1) (cs : List Color) (z : Nat), cs.length = n → n ≤ z →
        (packBand mono 0 cs).getLsbD z = false) ∧
    (L.h.toNat % 2 = 1 →
      unitCount .enc4Bit L = L.w.toNat * (L.h.toNat / 2) + L.w.toNat ∧
      unitCoords .enc4Bit 1#2 L (L.w.toNat * (L.h.toNat / 2) + x) =
        [(BitVec.ofNat 16 (L.w.toNat - 1 - x), 0#16)])

/-! ## Whole sessions and the whole machine -/

/-- R28, R100: STATUS.STATE from the phase, and the ENGINE's turn: a step exactly in HDR, BODY and
FIN, the one the phase selects, and no change in any other phase. -/
def Obligations.EngineStepsByPhase : Prop :=
  ∀ s : State, s.schedule = [] →
    (s.phase = .idle → stateCode s.phase = 0#2 ∧ step s = .next s) ∧
    (s.phase = .hdr → stateCode s.phase = 1#2 ∧ step s = exec .stepHdr s) ∧
    (s.phase = .body → stateCode s.phase = 1#2 ∧ step s = exec .stepUnit s) ∧
    (s.phase = .fin → stateCode s.phase = 1#2 ∧ step s = exec .stepFin s) ∧
    (s.phase = .done → stateCode s.phase = 2#2 ∧ step s = .next s) ∧
    (s.phase = .error → stateCode s.phase = 3#2 ∧ step s = .next s)

/-- A step runs the decoded instruction: when the bytes the next move brings decode to i, the step is
exec of i on the state with that move taken off the schedule. The spec makes each host transaction and
each engine step one atomic transition (R70) and gives the words (R90). That the moves stand in a list
in the state, the next one first and off it before exec runs, is the model's choice (log entry 1), and
so are the bytes of a word (log entry 11). -/
def Obligations.StepRunsTheDecodedInstruction : Prop :=
  ∀ (s : State) (i : Instr), s.nextMove ≠ .reset →
    decode s.selectCtx (s.fetchBytes s.nextMove) = .ok i → step s = exec i s.popMove

/-- The model's choice (log entry 1): every transition takes exactly one move off the schedule, so after
a finite schedule the ENGINE moves at every step. This is how the model renders the atomic interleaving
of R70 and the fairness of R272, neither of which speaks of a list. -/
def Obligations.EveryStepTakesOneMove : Prop :=
  ∀ s t : State, step s = .next t → t.schedule = s.schedule.tail

/-- R65, R76, R27, R221, R222: what a transition can change. CFG and DIM change only by their own
writes, L only by a START that is not ignored, and `out` is emptied by such a START and by reset
alone: any other transition extends `out` and the output port by the same bytes. -/
def Obligations.WhatATransitionCanChange : Prop :=
  ∀ s t : State, step s = .next t → s.nextMove ≠ .reset →
    let fetched := decode s.selectCtx (s.fetchBytes s.nextMove)
    let started := s.phase.busy = false ∧ ∃ data, fetched = .ok (.start data)
    (t.cfg = s.cfg ∨ ∃ data, fetched = .ok (.wrCfg data)) ∧
    (t.dim = s.dim ∨ ∃ data, fetched = .ok (.wrDim data)) ∧
    (t.L = s.L ∨ started) ∧
    ((∃ bytes, t.out = s.out ++ bytes ∧ t.port = s.port ++ bytes) ∨
      (started ∧ t.out = [] ∧ t.port = s.port))

/-- R79, R267: CFG and DIM do not reach a running session: each engine step does to a state with
other values in CFG and DIM what it does to the state itself. -/
def Obligations.RunningSessionReadsOnlyTheLatchedCopy : Prop :=
  ∀ (i : Instr) (s : State) (cfg dim : Word), i ∈ [.stepHdr, .stepUnit, .stepFin] →
    (∀ t, exec i s = .next t →
      exec i { s with cfg := cfg, dim := dim } = .next { t with cfg := cfg, dim := dim }) ∧
    (∀ e, exec i s = .fault e → exec i { s with cfg := cfg, dim := dim } = .fault e)

/-- R250: only START and reset leave an error: in phase ERROR any other transition of HOST or ENGINE
keeps the phase and the error report. -/
def Obligations.ErrorStaysUntilStartOrReset : Prop :=
  ∀ s t : State, s.phase = .error → s.nextMove.architectural = true → s.nextMove ≠ .reset →
    (∀ data, decode s.selectCtx (s.fetchBytes s.nextMove) ≠ .ok (.start data)) →
    step s = .next t →
    t.phase = .error ∧ t.err = s.err ∧ t.cause = s.cause ∧ t.errxy = s.errxy ∧
      t.statusWord = s.statusWord

/-- The invariant holds right after reset. -/
def Obligations.InvariantHoldsAtReset : Prop := State.reset.Inv

/-- R21, R24, R25, R35, R101: the invariant (the reserved bits of CFG, the STATUS relations, the
producer's relations, the cursor's range, `out` on the port) is kept by every transition of HOST,
ENGINE and reset. -/
def Obligations.EveryTransitionKeepsTheInvariant : Prop :=
  ∀ s t : State, s.Inv → step s = .next t → t.Inv

/-- R247: from a state that meets the invariant every transition of HOST, ENGINE and reset has a next
state: nothing stops the block. -/
def Obligations.NothingStopsTheBlock : Prop :=
  ∀ s : State, s.Inv → ∃ t, step s = .next t

/-- From R159 and R160: a session whose reads are all answered, from the state START leaves, ends in
DONE after N(L) + 2 engine steps with out = tag ++ size ++ P(body), whatever host transactions (reads,
writes of CFG and DIM, a START while BUSY) are interleaved with them. The n steps are those N(L) + 2 and
the host transactions among the first n moves. That the interleaving is a finite list of moves, after
which the ENGINE alone moves, is the model's choice (log entry 1). -/
def Obligations.SessionWritesHeaderThenBody : Prop :=
  ∀ (s : State) (op : SessionOp) (body : List Byte) (u : State),
    s.phase = .hdr → s.out = [] → s.k = 0#32 → s.rle = rleStart →
    (∀ m ∈ s.schedule, m.isHost = true ∨ m = .engine) →
    sessionOp s.L = some op → bodyFrom op (unitCount op s.L) s = some (body, u) →
    ∃ (n : Nat) (t : State),
      n = unitCount op s.L + 2 + (s.schedule.take n).countP Move.isHost ∧
      Host.Core.run Sys2Proof.core n s = .next t ∧ t.phase = .done ∧
      t.artifact = some (tagBytes op ++ sizeBytes op s.L ++ producedBody s.L body) ∧
      t.err = s.err ∧ t.cause = s.cause ∧ t.errxy = s.errxy ∧
      t.k.toNat = unitCount op s.L ∧ t.rle = rleStart

/-- R162: an empty image, with the ENGINE alone to move (log entry 1): N(L) = 0, two engine steps, and
`out` is the tag and the size header. -/
def Obligations.EmptyImageIsItsHeader : Prop :=
  ∀ (s : State) (op : SessionOp),
    s.phase = .hdr → s.schedule = [] → s.out = [] → s.rle = rleStart →
    sessionOp s.L = some op → s.L.w = 0#16 ∨ s.L.h = 0#16 →
    unitCount op s.L = 0 ∧
    ∃ t : State, Host.Core.run Sys2Proof.core 2 s = .next t ∧ t.phase = .done ∧
      t.out = tagBytes op ++ sizeBytes op s.L ∧ t.reads = s.reads

/-- R160, R271: from a state that meets the invariant, with the ENGINE alone to move, a BUSY session
ends in DONE or ERROR after at most its remaining steps, N(L) + 2 from its start. That the ENGINE moves
when no move is listed is the model's choice (log entry 1). -/
def Obligations.EverySessionEnds : Prop :=
  ∀ (s : State) (op : SessionOp), s.Inv → s.phase.busy = true → s.schedule = [] →
    sessionOp s.L = some op →
    stepsLeft op s ≤ unitCount op s.L + 2 ∧
    ∃ (n : Nat) (t : State), n ≤ stepsLeft op s ∧ Host.Core.run Sys2Proof.core n s = .next t ∧
      (t.phase = .done ∨ t.phase = .error)

/-- R263: a START straight after reset runs a 1BIT session of a 0×0 image, writes [0, 0] and ends in
DONE after two engine steps. -/
def Obligations.StartStraightAfterReset : Prop :=
  validate (latchOf State.reset.cfg State.reset.dim) = 0#4 ∧
  ∃ t : State, Host.Core.run Sys2Proof.core 3
      { State.reset with schedule := [.host (wrWord 0x08#8 1#32)] } = .next t ∧
    t.out = [0#8, 0#8] ∧ t.phase = .done ∧ t.statusWord = 2#32

/-! ## Encodings -/

/-- R107: the spec's worked encodings: the three words of `start fmt=rgb565, hdr=2, rle=1, w=10,
h=20`, `rd STATUS`, `push 0x7F`, `append 0x0A` and `finish`, as numbers. -/
def Obligations.WorkedEncodings : Prop :=
  expandStart { startDefaults 3#3 with hdrw := 1#1, rle := 1#1 } 10#16 20#16 =
    [0x1000001004B#41, 0x1040014000A#41, 0x10800000001#41] ∧
  wrWord 0x00#8 0x0001004B#32 = 0x1000001004B#41 ∧
  wrWord 0x04#8 0x0014000A#32 = 0x1040014000A#41 ∧
  wrWord 0x08#8 0x00000001#32 = 0x10800000001#41 ∧
  rdWord 0x0C#8 = 0x00C00000000#41 ∧
  encode (.pushRaw 0x7F#8) = pbusBytes 0x27F#10 ∧ encode (.pushRle 0x7F#8) = pbusBytes 0x27F#10 ∧
  encode (.append 0x0A#8) = pbusBytes 0x10A#10 ∧
  encode .finishRaw = pbusBytes 0x300#10 ∧ encode .finishRle = pbusBytes 0x300#10

/-- A few words written out from the encodings decode to what they stand for: one per format and
family (R91, R96 to R100). The bits of each word are the spec's; that an HBUS, a PBUS or a PHASE word
lies in 6, 2 or 1 bytes, lowest first, is the model's choice (log entry 11). A sanity statement. -/
def Obligations.SampleWordsDecode : Prop :=
  decode ⟨0#1, 20#16⟩ [0x4B#8, 0x00#8, 0x01#8, 0x00#8, 0x00#8, 0x01#8] = .ok (.wrCfg 0x0001004B#32) ∧
  decode ⟨0#1, 20#16⟩ [0x01#8, 0x00#8, 0x00#8, 0x00#8, 0x08#8, 0x01#8] = .ok (.start 1#32) ∧
  decode ⟨0#1, 20#16⟩ [0x00#8, 0x00#8, 0x00#8, 0x00#8, 0x0C#8, 0x00#8] = .ok .rdStatus ∧
  decode ⟨0#1, 20#16⟩ [0x22#8, 0x00#8, 0x01#8, 0x00#8] =
    .ok (.enc8BitCol ⟨2#3, 0#1, 2#2, 0#1, 0#1, 1#16⟩) ∧
  decode ⟨0#1, 10#16⟩ [0x00#8, 0x00#8, 0x03#8, 0x00#8] =
    .ok (.invalidRowsDiv ⟨0#3, 0#1, 0#2, 0#1, 0#1, 3#16⟩) ∧
  decode ⟨1#1, 20#16⟩ [0x7F#8, 0x02#8] = .ok (.pushRle 0x7F#8) ∧
  decode ⟨0#1, 20#16⟩ [0x7F#8, 0x02#8] = .ok (.pushRaw 0x7F#8) ∧
  decode ⟨0#1, 20#16⟩ [0x02#8] = .ok .stepUnit

/-- Decode and encode agree: every well-formed instruction, of all four formats and with every
operand at every value, comes back from its own bytes. -/
def Obligations.DecodeInvertsEncode : Prop :=
  ∀ (c : SelectCtx) (i : Instr), i.wellFormed c = true → decode c (encode i) = .ok i

/-- Whatever the decoder reads from bytes is a well-formed instruction, and the bytes are that
instruction's own word: its format's number of bytes, equal to its encoding but for the DATA bits its
row ignores (R91, R98). So no reserved encoding falls through to a neighbour (R90, R96 to R100, R220).
The number and order of the bytes are the model's choice (log entry 11). -/
def Obligations.DecodedInstructionIsWellFormed : Prop :=
  ∀ (c : SelectCtx) (bs : List Byte) (i : Instr), decode c bs = .ok i →
    i.wellFormed c = true ∧ bs.length = formatBytes i.format ∧
    bs.drop i.ignoredBytes = (encode i).drop i.ignoredBytes

/-- Bytes that are no word of the block are refused by name: PHASE 0, 4 and 5 select no engine step and
6 and 7 are never held (R100), a CFGW word's bits [15:8] hold 0 (R95), and no bit stands above a word's
width (R90, R91, R98). The bytes and the refusals' names are the model's choice (log entry 11). -/
def Obligations.ReservedWordsAreRefused : Prop :=
  ∀ (c : SelectCtx) (b0 b1 b2 b3 b4 b5 : Byte) (bs : List Byte),
    decode c [0#8] = .reject .noEngineStep ∧ decode c [4#8] = .reject .noEngineStep ∧
    decode c [5#8] = .reject .noEngineStep ∧
    decode c [6#8] = .reject .phaseNeverHeld ∧ decode c [7#8] = .reject .phaseNeverHeld ∧
    (8 ≤ b0.toNat → decode c [b0] = .reject .phaseBeyond3) ∧
    (4 ≤ b1.toNat → decode c [b0, b1] = .reject .pbusBeyond10) ∧
    (b1 ≠ 0#8 → decode c [b0, b1, b2, b3] = .reject .cfgwReserved) ∧
    (2 ≤ b5.toNat → decode c [b0, b1, b2, b3, b4, b5] = .reject .hbusBeyond41) ∧
    (bs.length ∉ [1, 2, 4, 6] → decode c bs = .reject (.badLength bs.length))
end

