-- ==== Sys2Proof/Laws/Decode.lean ====
section
/-! SUPPORT. Words, bytes and fields undo each other; what each format's bytes decode to. -/

namespace Sys2Proof

/-! ### Bytes -/

theorem joinBytes_hbus (w : BitVec 41) : joinBytes 48 (hbusBytes w) = w.setWidth 48 := by
  apply BitVec.eq_of_getLsbD_eq
  intro i hi
  simp only [hbusBytes, joinBytes, byteOf]
  interval_cases i <;> simp

theorem joinBytes_cfgw (w : Word) : joinBytes 32 (cfgwBytes w) = w := by
  apply BitVec.eq_of_getLsbD_eq
  intro i hi
  simp only [cfgwBytes, joinBytes, byteOf]
  interval_cases i <;> simp

theorem joinBytes_pbus (w : BitVec 10) : joinBytes 16 (pbusBytes w) = w.setWidth 16 := by
  apply BitVec.eq_of_getLsbD_eq
  intro i hi
  simp only [pbusBytes, joinBytes, byteOf]
  interval_cases i <;> simp

/-! ### Fields -/

@[simp] theorem hbusWord_we (we : BitVec 1) (addr : Byte) (data : Word) :
    (hbusWord we addr data).extractLsb' 40 1 = we := by
  apply BitVec.eq_of_getLsbD_eq
  intro i hi
  interval_cases i
  simp [hbusWord]

@[simp] theorem hbusWord_addr (we : BitVec 1) (addr : Byte) (data : Word) :
    (hbusWord we addr data).extractLsb' 32 8 = addr := by
  apply BitVec.eq_of_getLsbD_eq
  intro i hi
  interval_cases i <;> simp [hbusWord]

@[simp] theorem hbusWord_data (we : BitVec 1) (addr : Byte) (data : Word) :
    (hbusWord we addr data).extractLsb' 0 32 = data := by
  apply BitVec.eq_of_getLsbD_eq
  intro i hi
  have h : i < 41 := by omega
  simp [hbusWord, hi, h, show i < 40 by omega]

@[simp] theorem pbusWord_op (op : BitVec 2) (data : Byte) :
    (pbusWord op data).extractLsb' 8 2 = op := by
  apply BitVec.eq_of_getLsbD_eq
  intro i hi
  interval_cases i <;> simp [pbusWord]

@[simp] theorem pbusWord_data (op : BitVec 2) (data : Byte) :
    (pbusWord op data).extractLsb' 0 8 = data := by
  apply BitVec.eq_of_getLsbD_eq
  intro i hi
  interval_cases i <;> simp [pbusWord]

/-- The fields of the word made of fields are those fields. -/
@[simp] theorem cfgFieldsOf_cfgWordOf (f : CfgFields) : cfgFieldsOf (cfgWordOf f) = f := by
  obtain ⟨fmt, hdrw, orient, rle, mono, rows⟩ := f
  simp only [cfgFieldsOf, CfgFields.mk.injEq]
  refine ⟨?_, ?_, ?_, ?_, ?_, ?_⟩ <;>
    (apply BitVec.eq_of_getLsbD_eq; intro i hi; interval_cases i <;> simp [cfgWordOf])

/-- The reserved bits of a word made of fields are 0 (R95). -/
@[simp] theorem cfgWordOf_reserved (f : CfgFields) : (cfgWordOf f).extractLsb' 8 8 = 0#8 := by
  apply BitVec.eq_of_getLsbD_eq
  intro i hi
  interval_cases i <;> simp [cfgWordOf]

/-! ### Decoding each format's bytes -/

/-- The bytes of an HBUS word decode by its three fields. -/
theorem decode_hbusBytes (c : SelectCtx) (w : BitVec 41) :
    decode c (hbusBytes w) =
      .ok (decodeHbus (w.extractLsb' 40 1) (w.extractLsb' 32 8) (w.extractLsb' 0 32)) := by
  have h : decode c (hbusBytes w) = decodeHbusWord (joinBytes 48 (hbusBytes w)) := rfl
  have h1 : (w.setWidth 48).extractLsb' 41 7 = 0#7 := by ext i hi; simp
  have h2 : (w.setWidth 48).extractLsb' 40 1 = w.extractLsb' 40 1 := by ext i hi; simp; omega
  have h3 : (w.setWidth 48).extractLsb' 32 8 = w.extractLsb' 32 8 := by ext i hi; simp; omega
  have h4 : (w.setWidth 48).extractLsb' 0 32 = w.extractLsb' 0 32 := by ext i hi; simp; omega
  rw [h, joinBytes_hbus, decodeHbusWord, if_pos h1, h2, h3, h4]

/-- The bytes of a CFGW word made of fields decode by the fields. -/
theorem decode_cfgwBytes (c : SelectCtx) (f : CfgFields) :
    decode c (cfgwBytes (cfgWordOf f)) = .ok (decodeCfgw c f) := by
  have h : decode c (cfgwBytes (cfgWordOf f)) =
      decodeCfgwWord c (joinBytes 32 (cfgwBytes (cfgWordOf f))) := rfl
  simp [h, joinBytes_cfgw, decodeCfgwWord]

/-- The bytes of a PBUS word decode by its two fields. -/
theorem decode_pbusBytes (c : SelectCtx) (w : BitVec 10) :
    decode c (pbusBytes w) = .ok (decodePbus c (w.extractLsb' 8 2) (w.extractLsb' 0 8)) := by
  have h : decode c (pbusBytes w) = decodePbusWord c (joinBytes 16 (pbusBytes w)) := rfl
  have h1 : (w.setWidth 16).extractLsb' 10 6 = 0#6 := by ext i hi; simp
  have h2 : (w.setWidth 16).extractLsb' 8 2 = w.extractLsb' 8 2 := by ext i hi; simp; omega
  have h3 : (w.setWidth 16).extractLsb' 0 8 = w.extractLsb' 0 8 := by ext i hi; simp; omega
  rw [h, joinBytes_pbus, decodePbusWord, if_pos h1, h2, h3]

/-! ### From bytes back to words: the bytes a decoding accepts are its word's own -/

/-- Bit i of joined bytes. -/
theorem joinBytes_getLsbD (n : Nat) (b : Byte) (bs : List Byte) (i : Nat) :
    (joinBytes n (b :: bs)).getLsbD i =
      (decide (i < n) && if i < 8 then b.getLsbD i else (joinBytes n bs).getLsbD (i - 8)) := by
  simp only [joinBytes, BitVec.getLsbD_or, BitVec.getLsbD_setWidth, BitVec.getLsbD_shiftLeft]
  by_cases h : i < 8
  · simp [h]
  · simp [h, BitVec.getLsbD_of_ge b i (by omega)]

/-- The first of joined bytes. -/
theorem byteOf_joinBytes_zero (n : Nat) (b : Byte) (bs : List Byte) (hn : 8 ≤ n) :
    byteOf 0 (joinBytes n (b :: bs)) = b := by
  apply BitVec.eq_of_getLsbD_eq
  intro j hj
  simp only [byteOf, BitVec.getLsbD_extractLsb', joinBytes_getLsbD]
  simp [hj, show j < n by omega]

/-- A later one of joined bytes. -/
theorem byteOf_joinBytes_succ (n i : Nat) (b : Byte) (bs : List Byte) (hn : 8 * (i + 2) ≤ n) :
    byteOf (i + 1) (joinBytes n (b :: bs)) = byteOf i (joinBytes n bs) := by
  apply BitVec.eq_of_getLsbD_eq
  intro j hj
  simp only [byteOf, BitVec.getLsbD_extractLsb', joinBytes_getLsbD]
  rw [show 8 * (i + 1) + j - 8 = 8 * i + j by omega]
  simp [hj, show 8 * (i + 1) + j < n by omega]
  intro h; omega

/-- A byte within both widths is the same byte. -/
theorem byteOf_setWidth {n m : Nat} (i : Nat) (w : BitVec n) (h : 8 * (i + 1) ≤ m) :
    byteOf i (w.setWidth m) = byteOf i w := by
  apply BitVec.eq_of_getLsbD_eq
  intro j hj
  simp only [byteOf, BitVec.getLsbD_extractLsb', BitVec.getLsbD_setWidth]
  simp [show 8 * i + j < m by omega]

/-- Four bytes are their CFGW word's. -/
theorem cfgwBytes_joinBytes (b0 b1 b2 b3 : Byte) :
    cfgwBytes (joinBytes 32 [b0, b1, b2, b3]) = [b0, b1, b2, b3] := by
  simp [cfgwBytes, byteOf_joinBytes_zero, byteOf_joinBytes_succ]

/-- A container with nothing above 41 bits is the HBUS word of its fields. -/
theorem hbusWord_of_fields (w : BitVec 48) (h : w.extractLsb' 41 7 = 0#7) :
    (hbusWord (w.extractLsb' 40 1) (w.extractLsb' 32 8) (w.extractLsb' 0 32)).setWidth 48 = w := by
  have hb : ∀ i, i < 7 → w.getLsbD (41 + i) = false := fun i hi => by
    simpa [BitVec.getLsbD_extractLsb', hi] using congrArg (BitVec.getLsbD · i) h
  apply BitVec.eq_of_getLsbD_eq
  intro i hi
  by_cases h41 : 41 ≤ i
  · have := hb (i - 41) (by omega)
    rw [show 41 + (i - 41) = i by omega] at this
    rw [this]; simp [BitVec.getLsbD_setWidth, BitVec.getLsbD_of_ge, h41]
  · simp only [hbusWord, BitVec.getLsbD_extractLsb', BitVec.getLsbD_or,
      BitVec.getLsbD_setWidth, BitVec.getLsbD_shiftLeft]
    interval_cases i <;> simp

/-- A container with nothing above 10 bits is the PBUS word of its fields. -/
theorem pbusWord_of_fields (w : BitVec 16) (h : w.extractLsb' 10 6 = 0#6) :
    (pbusWord (w.extractLsb' 8 2) (w.extractLsb' 0 8)).setWidth 16 = w := by
  have hb : ∀ i, i < 6 → w.getLsbD (10 + i) = false := fun i hi => by
    simpa [BitVec.getLsbD_extractLsb', hi] using congrArg (BitVec.getLsbD · i) h
  apply BitVec.eq_of_getLsbD_eq
  intro i hi
  by_cases h10 : 10 ≤ i
  · have := hb (i - 10) (by omega)
    rw [show 10 + (i - 10) = i by omega] at this
    rw [this]; simp [BitVec.getLsbD_setWidth, BitVec.getLsbD_of_ge, h10]
  · simp only [pbusWord, BitVec.getLsbD_extractLsb', BitVec.getLsbD_or,
      BitVec.getLsbD_setWidth, BitVec.getLsbD_shiftLeft]
    interval_cases i <;> simp

/-- A CFGW word whose reserved bits are 0 is the word of its fields. -/
theorem cfgWordOf_cfgFieldsOf (w : Word) (h : w.extractLsb' 8 8 = 0#8) :
    cfgWordOf (cfgFieldsOf w) = w := by
  have hb : ∀ i, i < 8 → w.getLsbD (8 + i) = false := fun i hi => by
    simpa [BitVec.getLsbD_extractLsb', hi] using congrArg (BitVec.getLsbD · i) h
  have h0 := hb 0; have h1 := hb 1; have h2 := hb 2; have h3 := hb 3
  have h4 := hb 4; have h5 := hb 5; have h6 := hb 6; have h7 := hb 7
  apply BitVec.eq_of_getLsbD_eq
  intro i hi
  simp only [cfgWordOf, cfgFieldsOf, BitVec.getLsbD_extractLsb', BitVec.getLsbD_or,
    BitVec.getLsbD_setWidth, BitVec.getLsbD_shiftLeft]
  interval_cases i <;> simp_all

/-- Six bytes with nothing above 41 bits are the HBUS word's of their fields. -/
theorem hbusBytes_fields (b0 b1 b2 b3 b4 b5 : Byte)
    (h : (joinBytes 48 [b0, b1, b2, b3, b4, b5]).extractLsb' 41 7 = 0#7) :
    hbusBytes (hbusWord ((joinBytes 48 [b0, b1, b2, b3, b4, b5]).extractLsb' 40 1)
      ((joinBytes 48 [b0, b1, b2, b3, b4, b5]).extractLsb' 32 8)
      ((joinBytes 48 [b0, b1, b2, b3, b4, b5]).extractLsb' 0 32)) = [b0, b1, b2, b3, b4, b5] := by
  have hw := hbusWord_of_fields _ h
  rw [hbusBytes, ← byteOf_setWidth (m := 48) 0 _ (by omega), ← byteOf_setWidth (m := 48) 1 _ (by omega),
    ← byteOf_setWidth (m := 48) 2 _ (by omega), ← byteOf_setWidth (m := 48) 3 _ (by omega),
    ← byteOf_setWidth (m := 48) 4 _ (by omega), ← byteOf_setWidth (m := 48) 5 _ (by omega), hw]
  simp [byteOf_joinBytes_zero, byteOf_joinBytes_succ]

/-- Two bytes with nothing above 10 bits are the PBUS word's of their fields. -/
theorem pbusBytes_fields (b0 b1 : Byte) (h : (joinBytes 16 [b0, b1]).extractLsb' 10 6 = 0#6) :
    pbusBytes (pbusWord ((joinBytes 16 [b0, b1]).extractLsb' 8 2)
      ((joinBytes 16 [b0, b1]).extractLsb' 0 8)) = [b0, b1] := by
  rw [pbusBytes, ← byteOf_setWidth (m := 16) 0 _ (by omega), ← byteOf_setWidth (m := 16) 1 _
    (by omega), pbusWord_of_fields _ h]
  simp [byteOf_joinBytes_zero, byteOf_joinBytes_succ]

end Sys2Proof
end

