-- ==== Sys2Proof/Laws/State.lean ====
section
/-! SUPPORT. One lemma per field per named update of State, true by unfolding the update once, so
that no proof about an instruction unfolds a record update. -/

namespace Sys2Proof.Machine

/-! ### sinkAppend -/

@[simp] theorem sinkAppend_cfg (s : State) (b : Byte) : (s.sinkAppend b).cfg = s.cfg := rfl
@[simp] theorem sinkAppend_dim (s : State) (b : Byte) : (s.sinkAppend b).dim = s.dim := rfl
@[simp] theorem sinkAppend_L (s : State) (b : Byte) : (s.sinkAppend b).L = s.L := rfl
@[simp] theorem sinkAppend_phase (s : State) (b : Byte) : (s.sinkAppend b).phase = s.phase := rfl
@[simp] theorem sinkAppend_err (s : State) (b : Byte) : (s.sinkAppend b).err = s.err := rfl
@[simp] theorem sinkAppend_cause (s : State) (b : Byte) : (s.sinkAppend b).cause = s.cause := rfl
@[simp] theorem sinkAppend_errxy (s : State) (b : Byte) : (s.sinkAppend b).errxy = s.errxy := rfl
@[simp] theorem sinkAppend_k (s : State) (b : Byte) : (s.sinkAppend b).k = s.k := rfl
@[simp] theorem sinkAppend_rmode (s : State) (b : Byte) : (s.sinkAppend b).rmode = s.rmode := rfl
@[simp] theorem sinkAppend_prev (s : State) (b : Byte) : (s.sinkAppend b).prev = s.prev := rfl
@[simp] theorem sinkAppend_count (s : State) (b : Byte) : (s.sinkAppend b).count = s.count := rfl
@[simp] theorem sinkAppend_out (s : State) (b : Byte) : (s.sinkAppend b).out = s.out ++ [b] := rfl
@[simp] theorem sinkAppend_rdata (s : State) (b : Byte) : (s.sinkAppend b).rdata = s.rdata := rfl
@[simp] theorem sinkAppend_unitBytes (s : State) (b : Byte) : (s.sinkAppend b).unitBytes = s.unitBytes := rfl
@[simp] theorem sinkAppend_port (s : State) (b : Byte) : (s.sinkAppend b).port = s.port ++ [b] := rfl
@[simp] theorem sinkAppend_reads (s : State) (b : Byte) : (s.sinkAppend b).reads = s.reads := rfl
@[simp] theorem sinkAppend_pixels (s : State) (b : Byte) : (s.sinkAppend b).pixels = s.pixels := rfl
@[simp] theorem sinkAppend_schedule (s : State) (b : Byte) : (s.sinkAppend b).schedule = s.schedule := rfl

/-! ### setRle -/

@[simp] theorem setRle_cfg (s : State) (r : RleState) : (s.setRle r).cfg = s.cfg := rfl
@[simp] theorem setRle_dim (s : State) (r : RleState) : (s.setRle r).dim = s.dim := rfl
@[simp] theorem setRle_L (s : State) (r : RleState) : (s.setRle r).L = s.L := rfl
@[simp] theorem setRle_phase (s : State) (r : RleState) : (s.setRle r).phase = s.phase := rfl
@[simp] theorem setRle_err (s : State) (r : RleState) : (s.setRle r).err = s.err := rfl
@[simp] theorem setRle_cause (s : State) (r : RleState) : (s.setRle r).cause = s.cause := rfl
@[simp] theorem setRle_errxy (s : State) (r : RleState) : (s.setRle r).errxy = s.errxy := rfl
@[simp] theorem setRle_k (s : State) (r : RleState) : (s.setRle r).k = s.k := rfl
@[simp] theorem setRle_rmode (s : State) (r : RleState) : (s.setRle r).rmode = r.rmode := rfl
@[simp] theorem setRle_prev (s : State) (r : RleState) : (s.setRle r).prev = r.prev := rfl
@[simp] theorem setRle_count (s : State) (r : RleState) : (s.setRle r).count = r.count := rfl
@[simp] theorem setRle_out (s : State) (r : RleState) : (s.setRle r).out = s.out := rfl
@[simp] theorem setRle_rdata (s : State) (r : RleState) : (s.setRle r).rdata = s.rdata := rfl
@[simp] theorem setRle_unitBytes (s : State) (r : RleState) : (s.setRle r).unitBytes = s.unitBytes := rfl
@[simp] theorem setRle_port (s : State) (r : RleState) : (s.setRle r).port = s.port := rfl
@[simp] theorem setRle_reads (s : State) (r : RleState) : (s.setRle r).reads = s.reads := rfl
@[simp] theorem setRle_pixels (s : State) (r : RleState) : (s.setRle r).pixels = s.pixels := rfl
@[simp] theorem setRle_schedule (s : State) (r : RleState) : (s.setRle r).schedule = s.schedule := rfl

/-! ### raise_invalid -/

@[simp] theorem raise_invalid_cfg (s : State) (c : BitVec 4) : (s.raise (.invalidConfiguration c)).cfg = s.cfg := rfl
@[simp] theorem raise_invalid_dim (s : State) (c : BitVec 4) : (s.raise (.invalidConfiguration c)).dim = s.dim := rfl
@[simp] theorem raise_invalid_L (s : State) (c : BitVec 4) : (s.raise (.invalidConfiguration c)).L = s.L := rfl
@[simp] theorem raise_invalid_phase (s : State) (c : BitVec 4) : (s.raise (.invalidConfiguration c)).phase = .error := rfl
@[simp] theorem raise_invalid_err (s : State) (c : BitVec 4) : (s.raise (.invalidConfiguration c)).err = 1#2 := rfl
@[simp] theorem raise_invalid_cause (s : State) (c : BitVec 4) : (s.raise (.invalidConfiguration c)).cause = c := rfl
@[simp] theorem raise_invalid_errxy (s : State) (c : BitVec 4) : (s.raise (.invalidConfiguration c)).errxy = s.errxy := rfl
@[simp] theorem raise_invalid_k (s : State) (c : BitVec 4) : (s.raise (.invalidConfiguration c)).k = s.k := rfl
@[simp] theorem raise_invalid_rmode (s : State) (c : BitVec 4) : (s.raise (.invalidConfiguration c)).rmode = s.rmode := rfl
@[simp] theorem raise_invalid_prev (s : State) (c : BitVec 4) : (s.raise (.invalidConfiguration c)).prev = s.prev := rfl
@[simp] theorem raise_invalid_count (s : State) (c : BitVec 4) : (s.raise (.invalidConfiguration c)).count = s.count := rfl
@[simp] theorem raise_invalid_out (s : State) (c : BitVec 4) : (s.raise (.invalidConfiguration c)).out = s.out := rfl
@[simp] theorem raise_invalid_rdata (s : State) (c : BitVec 4) : (s.raise (.invalidConfiguration c)).rdata = s.rdata := rfl
@[simp] theorem raise_invalid_unitBytes (s : State) (c : BitVec 4) : (s.raise (.invalidConfiguration c)).unitBytes = s.unitBytes := rfl
@[simp] theorem raise_invalid_port (s : State) (c : BitVec 4) : (s.raise (.invalidConfiguration c)).port = s.port := rfl
@[simp] theorem raise_invalid_reads (s : State) (c : BitVec 4) : (s.raise (.invalidConfiguration c)).reads = s.reads := rfl
@[simp] theorem raise_invalid_pixels (s : State) (c : BitVec 4) : (s.raise (.invalidConfiguration c)).pixels = s.pixels := rfl
@[simp] theorem raise_invalid_schedule (s : State) (c : BitVec 4) : (s.raise (.invalidConfiguration c)).schedule = s.schedule := rfl

/-! ### raise_unavailable -/

@[simp] theorem raise_unavailable_cfg (s : State) (px py : Half) : (s.raise (.sourceUnavailable px py)).cfg = s.cfg := rfl
@[simp] theorem raise_unavailable_dim (s : State) (px py : Half) : (s.raise (.sourceUnavailable px py)).dim = s.dim := rfl
@[simp] theorem raise_unavailable_L (s : State) (px py : Half) : (s.raise (.sourceUnavailable px py)).L = s.L := rfl
@[simp] theorem raise_unavailable_phase (s : State) (px py : Half) : (s.raise (.sourceUnavailable px py)).phase = .error := rfl
@[simp] theorem raise_unavailable_err (s : State) (px py : Half) : (s.raise (.sourceUnavailable px py)).err = 2#2 := rfl
@[simp] theorem raise_unavailable_cause (s : State) (px py : Half) : (s.raise (.sourceUnavailable px py)).cause = s.cause := rfl
@[simp] theorem raise_unavailable_errxy (s : State) (px py : Half) : (s.raise (.sourceUnavailable px py)).errxy = errxyOf px py := rfl
@[simp] theorem raise_unavailable_k (s : State) (px py : Half) : (s.raise (.sourceUnavailable px py)).k = s.k := rfl
@[simp] theorem raise_unavailable_rmode (s : State) (px py : Half) : (s.raise (.sourceUnavailable px py)).rmode = s.rmode := rfl
@[simp] theorem raise_unavailable_prev (s : State) (px py : Half) : (s.raise (.sourceUnavailable px py)).prev = s.prev := rfl
@[simp] theorem raise_unavailable_count (s : State) (px py : Half) : (s.raise (.sourceUnavailable px py)).count = s.count := rfl
@[simp] theorem raise_unavailable_out (s : State) (px py : Half) : (s.raise (.sourceUnavailable px py)).out = s.out := rfl
@[simp] theorem raise_unavailable_rdata (s : State) (px py : Half) : (s.raise (.sourceUnavailable px py)).rdata = s.rdata := rfl
@[simp] theorem raise_unavailable_unitBytes (s : State) (px py : Half) : (s.raise (.sourceUnavailable px py)).unitBytes = s.unitBytes := rfl
@[simp] theorem raise_unavailable_port (s : State) (px py : Half) : (s.raise (.sourceUnavailable px py)).port = s.port := rfl
@[simp] theorem raise_unavailable_reads (s : State) (px py : Half) : (s.raise (.sourceUnavailable px py)).reads = s.reads := rfl
@[simp] theorem raise_unavailable_pixels (s : State) (px py : Half) : (s.raise (.sourceUnavailable px py)).pixels = s.pixels := rfl
@[simp] theorem raise_unavailable_schedule (s : State) (px py : Half) : (s.raise (.sourceUnavailable px py)).schedule = s.schedule := rfl

/-! ### sendRead -/

@[simp] theorem sendRead_cfg (s : State) (x y : Half) : (s.sendRead x y).cfg = s.cfg := rfl
@[simp] theorem sendRead_dim (s : State) (x y : Half) : (s.sendRead x y).dim = s.dim := rfl
@[simp] theorem sendRead_L (s : State) (x y : Half) : (s.sendRead x y).L = s.L := rfl
@[simp] theorem sendRead_phase (s : State) (x y : Half) : (s.sendRead x y).phase = s.phase := rfl
@[simp] theorem sendRead_err (s : State) (x y : Half) : (s.sendRead x y).err = s.err := rfl
@[simp] theorem sendRead_cause (s : State) (x y : Half) : (s.sendRead x y).cause = s.cause := rfl
@[simp] theorem sendRead_errxy (s : State) (x y : Half) : (s.sendRead x y).errxy = s.errxy := rfl
@[simp] theorem sendRead_k (s : State) (x y : Half) : (s.sendRead x y).k = s.k := rfl
@[simp] theorem sendRead_rmode (s : State) (x y : Half) : (s.sendRead x y).rmode = s.rmode := rfl
@[simp] theorem sendRead_prev (s : State) (x y : Half) : (s.sendRead x y).prev = s.prev := rfl
@[simp] theorem sendRead_count (s : State) (x y : Half) : (s.sendRead x y).count = s.count := rfl
@[simp] theorem sendRead_out (s : State) (x y : Half) : (s.sendRead x y).out = s.out := rfl
@[simp] theorem sendRead_rdata (s : State) (x y : Half) : (s.sendRead x y).rdata = s.rdata := rfl
@[simp] theorem sendRead_unitBytes (s : State) (x y : Half) : (s.sendRead x y).unitBytes = s.unitBytes := rfl
@[simp] theorem sendRead_port (s : State) (x y : Half) : (s.sendRead x y).port = s.port := rfl
@[simp] theorem sendRead_reads (s : State) (x y : Half) : (s.sendRead x y).reads = s.reads ++ [(x, y)] := rfl
@[simp] theorem sendRead_pixels (s : State) (x y : Half) : (s.sendRead x y).pixels = s.pixels.eraseP (PixelEntry.isAt x y) := rfl
@[simp] theorem sendRead_schedule (s : State) (x y : Half) : (s.sendRead x y).schedule = s.schedule := rfl

/-! ### begin -/

@[simp] theorem begin_cfg (s : State) : (s.begin).cfg = s.cfg := rfl
@[simp] theorem begin_dim (s : State) : (s.begin).dim = s.dim := rfl
@[simp] theorem begin_L (s : State) : (s.begin).L = latchOf s.cfg s.dim := rfl
@[simp] theorem begin_phase (s : State) : (s.begin).phase = s.phase := rfl
@[simp] theorem begin_err (s : State) : (s.begin).err = 0#2 := rfl
@[simp] theorem begin_cause (s : State) : (s.begin).cause = 0#4 := rfl
@[simp] theorem begin_errxy (s : State) : (s.begin).errxy = 0#32 := rfl
@[simp] theorem begin_k (s : State) : (s.begin).k = 0#32 := rfl
@[simp] theorem begin_rmode (s : State) : (s.begin).rmode = .literal := rfl
@[simp] theorem begin_prev (s : State) : (s.begin).prev = none := rfl
@[simp] theorem begin_count (s : State) : (s.begin).count = 0#8 := rfl
@[simp] theorem begin_out (s : State) : (s.begin).out = [] := rfl
@[simp] theorem begin_rdata (s : State) : (s.begin).rdata = s.rdata := rfl
@[simp] theorem begin_unitBytes (s : State) : (s.begin).unitBytes = s.unitBytes := rfl
@[simp] theorem begin_port (s : State) : (s.begin).port = s.port := rfl
@[simp] theorem begin_reads (s : State) : (s.begin).reads = s.reads := rfl
@[simp] theorem begin_pixels (s : State) : (s.begin).pixels = s.pixels := rfl
@[simp] theorem begin_schedule (s : State) : (s.begin).schedule = s.schedule := rfl

/-! ### advanceUnit -/

@[simp] theorem advanceUnit_cfg (s : State) (op : SessionOp) : (s.advanceUnit op).cfg = s.cfg := rfl
@[simp] theorem advanceUnit_dim (s : State) (op : SessionOp) : (s.advanceUnit op).dim = s.dim := rfl
@[simp] theorem advanceUnit_L (s : State) (op : SessionOp) : (s.advanceUnit op).L = s.L := rfl
@[simp] theorem advanceUnit_phase (s : State) (op : SessionOp) : (s.advanceUnit op).phase = if (s.k + 1#32).toNat = unitCount op s.L then .fin else s.phase := rfl
@[simp] theorem advanceUnit_err (s : State) (op : SessionOp) : (s.advanceUnit op).err = s.err := rfl
@[simp] theorem advanceUnit_cause (s : State) (op : SessionOp) : (s.advanceUnit op).cause = s.cause := rfl
@[simp] theorem advanceUnit_errxy (s : State) (op : SessionOp) : (s.advanceUnit op).errxy = s.errxy := rfl
@[simp] theorem advanceUnit_k (s : State) (op : SessionOp) : (s.advanceUnit op).k = s.k + 1#32 := rfl
@[simp] theorem advanceUnit_rmode (s : State) (op : SessionOp) : (s.advanceUnit op).rmode = s.rmode := rfl
@[simp] theorem advanceUnit_prev (s : State) (op : SessionOp) : (s.advanceUnit op).prev = s.prev := rfl
@[simp] theorem advanceUnit_count (s : State) (op : SessionOp) : (s.advanceUnit op).count = s.count := rfl
@[simp] theorem advanceUnit_out (s : State) (op : SessionOp) : (s.advanceUnit op).out = s.out := rfl
@[simp] theorem advanceUnit_rdata (s : State) (op : SessionOp) : (s.advanceUnit op).rdata = s.rdata := rfl
@[simp] theorem advanceUnit_unitBytes (s : State) (op : SessionOp) : (s.advanceUnit op).unitBytes = s.unitBytes := rfl
@[simp] theorem advanceUnit_port (s : State) (op : SessionOp) : (s.advanceUnit op).port = s.port := rfl
@[simp] theorem advanceUnit_reads (s : State) (op : SessionOp) : (s.advanceUnit op).reads = s.reads := rfl
@[simp] theorem advanceUnit_pixels (s : State) (op : SessionOp) : (s.advanceUnit op).pixels = s.pixels := rfl
@[simp] theorem advanceUnit_schedule (s : State) (op : SessionOp) : (s.advanceUnit op).schedule = s.schedule := rfl

/-! ### respond -/

@[simp] theorem respond_cfg (s : State) (v : Word) : (s.respond v).cfg = s.cfg := rfl
@[simp] theorem respond_dim (s : State) (v : Word) : (s.respond v).dim = s.dim := rfl
@[simp] theorem respond_L (s : State) (v : Word) : (s.respond v).L = s.L := rfl
@[simp] theorem respond_phase (s : State) (v : Word) : (s.respond v).phase = s.phase := rfl
@[simp] theorem respond_err (s : State) (v : Word) : (s.respond v).err = s.err := rfl
@[simp] theorem respond_cause (s : State) (v : Word) : (s.respond v).cause = s.cause := rfl
@[simp] theorem respond_errxy (s : State) (v : Word) : (s.respond v).errxy = s.errxy := rfl
@[simp] theorem respond_k (s : State) (v : Word) : (s.respond v).k = s.k := rfl
@[simp] theorem respond_rmode (s : State) (v : Word) : (s.respond v).rmode = s.rmode := rfl
@[simp] theorem respond_prev (s : State) (v : Word) : (s.respond v).prev = s.prev := rfl
@[simp] theorem respond_count (s : State) (v : Word) : (s.respond v).count = s.count := rfl
@[simp] theorem respond_out (s : State) (v : Word) : (s.respond v).out = s.out := rfl
@[simp] theorem respond_rdata (s : State) (v : Word) : (s.respond v).rdata = some v := rfl
@[simp] theorem respond_unitBytes (s : State) (v : Word) : (s.respond v).unitBytes = s.unitBytes := rfl
@[simp] theorem respond_port (s : State) (v : Word) : (s.respond v).port = s.port := rfl
@[simp] theorem respond_reads (s : State) (v : Word) : (s.respond v).reads = s.reads := rfl
@[simp] theorem respond_pixels (s : State) (v : Word) : (s.respond v).pixels = s.pixels := rfl
@[simp] theorem respond_schedule (s : State) (v : Word) : (s.respond v).schedule = s.schedule := rfl

/-! ### popMove -/

@[simp] theorem popMove_cfg (s : State) : (s.popMove).cfg = s.cfg := rfl
@[simp] theorem popMove_dim (s : State) : (s.popMove).dim = s.dim := rfl
@[simp] theorem popMove_L (s : State) : (s.popMove).L = s.L := rfl
@[simp] theorem popMove_phase (s : State) : (s.popMove).phase = s.phase := rfl
@[simp] theorem popMove_err (s : State) : (s.popMove).err = s.err := rfl
@[simp] theorem popMove_cause (s : State) : (s.popMove).cause = s.cause := rfl
@[simp] theorem popMove_errxy (s : State) : (s.popMove).errxy = s.errxy := rfl
@[simp] theorem popMove_k (s : State) : (s.popMove).k = s.k := rfl
@[simp] theorem popMove_rmode (s : State) : (s.popMove).rmode = s.rmode := rfl
@[simp] theorem popMove_prev (s : State) : (s.popMove).prev = s.prev := rfl
@[simp] theorem popMove_count (s : State) : (s.popMove).count = s.count := rfl
@[simp] theorem popMove_out (s : State) : (s.popMove).out = s.out := rfl
@[simp] theorem popMove_rdata (s : State) : (s.popMove).rdata = s.rdata := rfl
@[simp] theorem popMove_unitBytes (s : State) : (s.popMove).unitBytes = s.unitBytes := rfl
@[simp] theorem popMove_port (s : State) : (s.popMove).port = s.port := rfl
@[simp] theorem popMove_reads (s : State) : (s.popMove).reads = s.reads := rfl
@[simp] theorem popMove_pixels (s : State) : (s.popMove).pixels = s.pixels := rfl
@[simp] theorem popMove_schedule (s : State) : (s.popMove).schedule = s.schedule.tail := rfl

/-! ### pushMove -/

@[simp] theorem pushMove_cfg (s : State) (m : Move) : (s.pushMove m).cfg = s.cfg := rfl
@[simp] theorem pushMove_dim (s : State) (m : Move) : (s.pushMove m).dim = s.dim := rfl
@[simp] theorem pushMove_L (s : State) (m : Move) : (s.pushMove m).L = s.L := rfl
@[simp] theorem pushMove_phase (s : State) (m : Move) : (s.pushMove m).phase = s.phase := rfl
@[simp] theorem pushMove_err (s : State) (m : Move) : (s.pushMove m).err = s.err := rfl
@[simp] theorem pushMove_cause (s : State) (m : Move) : (s.pushMove m).cause = s.cause := rfl
@[simp] theorem pushMove_errxy (s : State) (m : Move) : (s.pushMove m).errxy = s.errxy := rfl
@[simp] theorem pushMove_k (s : State) (m : Move) : (s.pushMove m).k = s.k := rfl
@[simp] theorem pushMove_rmode (s : State) (m : Move) : (s.pushMove m).rmode = s.rmode := rfl
@[simp] theorem pushMove_prev (s : State) (m : Move) : (s.pushMove m).prev = s.prev := rfl
@[simp] theorem pushMove_count (s : State) (m : Move) : (s.pushMove m).count = s.count := rfl
@[simp] theorem pushMove_out (s : State) (m : Move) : (s.pushMove m).out = s.out := rfl
@[simp] theorem pushMove_rdata (s : State) (m : Move) : (s.pushMove m).rdata = s.rdata := rfl
@[simp] theorem pushMove_unitBytes (s : State) (m : Move) : (s.pushMove m).unitBytes = s.unitBytes := rfl
@[simp] theorem pushMove_port (s : State) (m : Move) : (s.pushMove m).port = s.port := rfl
@[simp] theorem pushMove_reads (s : State) (m : Move) : (s.pushMove m).reads = s.reads := rfl
@[simp] theorem pushMove_pixels (s : State) (m : Move) : (s.pushMove m).pixels = s.pixels := rfl
@[simp] theorem pushMove_schedule (s : State) (m : Move) : (s.pushMove m).schedule = m :: s.schedule := rfl

/-! ### resetEvent -/

@[simp] theorem resetEvent_cfg (s : State) : (s.resetEvent).cfg = 0x00010000#32 := rfl
@[simp] theorem resetEvent_dim (s : State) : (s.resetEvent).dim = 0#32 := rfl
@[simp] theorem resetEvent_L (s : State) : (s.resetEvent).L = Latched.reset := rfl
@[simp] theorem resetEvent_phase (s : State) : (s.resetEvent).phase = .idle := rfl
@[simp] theorem resetEvent_err (s : State) : (s.resetEvent).err = 0#2 := rfl
@[simp] theorem resetEvent_cause (s : State) : (s.resetEvent).cause = 0#4 := rfl
@[simp] theorem resetEvent_errxy (s : State) : (s.resetEvent).errxy = 0#32 := rfl
@[simp] theorem resetEvent_k (s : State) : (s.resetEvent).k = 0#32 := rfl
@[simp] theorem resetEvent_rmode (s : State) : (s.resetEvent).rmode = .literal := rfl
@[simp] theorem resetEvent_prev (s : State) : (s.resetEvent).prev = none := rfl
@[simp] theorem resetEvent_count (s : State) : (s.resetEvent).count = 0#8 := rfl
@[simp] theorem resetEvent_out (s : State) : (s.resetEvent).out = [] := rfl
@[simp] theorem resetEvent_rdata (s : State) : (s.resetEvent).rdata = none := rfl
@[simp] theorem resetEvent_unitBytes (s : State) : (s.resetEvent).unitBytes = [] := rfl
@[simp] theorem resetEvent_port (s : State) : (s.resetEvent).port = s.port := rfl
@[simp] theorem resetEvent_reads (s : State) : (s.resetEvent).reads = s.reads := rfl
@[simp] theorem resetEvent_pixels (s : State) : (s.resetEvent).pixels = s.pixels := rfl
@[simp] theorem resetEvent_schedule (s : State) : (s.resetEvent).schedule = s.schedule := rfl

/-! ### The producer's state taken together -/

@[simp] theorem rle_rmode (s : State) : s.rle.rmode = s.rmode := rfl
@[simp] theorem rle_prev (s : State) : s.rle.prev = s.prev := rfl
@[simp] theorem rle_count (s : State) : s.rle.count = s.count := rfl
@[simp] theorem rle_setRle (s : State) (r : RleState) : (s.setRle r).rle = r := rfl
@[simp] theorem rle_sinkAppend (s : State) (b : Byte) : (s.sinkAppend b).rle = s.rle := rfl
@[simp] theorem rle_sendRead (s : State) (x y : Half) : (s.sendRead x y).rle = s.rle := rfl
@[simp] theorem rle_begin (s : State) : s.begin.rle = rleStart := rfl
@[simp] theorem rle_popMove (s : State) : s.popMove.rle = s.rle := rfl

end Sys2Proof.Machine
end

