-- ==== Sys2Proof/Laws/Ops.lean ====
section
/-! SUPPORT. One lemma per shared operation that says once everything it can do. -/

namespace Sys2Proof.Machine

/-! ### The sink and the producer -/

/-- SinkAppend of a list extends `out` and the port by it and changes nothing else. -/
theorem sinkAppendAll_eq (s : State) (bs : List Byte) :
    s.sinkAppendAll bs = { s with out := s.out ++ bs, port := s.port ++ bs } := by
  induction bs generalizing s with
  | nil => simp [State.sinkAppendAll]
  | cons b bs ih =>
    have h := ih (s.sinkAppend b)
    simp only [State.sinkAppendAll, List.foldl_cons] at h ⊢
    rw [h]
    simp [State.sinkAppend]

/-- PUSH in RLE mode of a list is one run of the transform. -/
theorem pushAll_rle (s : State) (bs : List Byte) (h : s.L.rle = 1#1) :
    s.pushAll bs = (s.sinkAppendAll (rlePushAll s.rle bs).2).setRle (rlePushAll s.rle bs).1 := by
  induction bs generalizing s with
  | nil => simp [State.pushAll, rlePushAll, sinkAppendAll_eq, State.setRle, State.rle]
  | cons b bs ih =>
    have hb : s.push b = s.pushRle b := by simp [State.push, h]
    have hL : (s.pushRle b).L.rle = 1#1 := by
      simpa [State.pushRle, sinkAppendAll_eq] using h
    have hr : (s.pushRle b).rle = (rlePush s.rle b).1 := by simp [State.pushRle]
    have := ih (s.pushRle b) hL
    simp only [State.pushAll, List.foldl_cons, hb] at this ⊢
    rw [this, hr]
    simp [State.pushRle, sinkAppendAll_eq, rlePushAll, State.setRle]

/-- PUSH in raw mode of a list appends it. -/
theorem pushAll_raw (s : State) (bs : List Byte) (h : s.L.rle ≠ 1#1) :
    s.pushAll bs = s.sinkAppendAll bs := by
  induction bs generalizing s with
  | nil => rfl
  | cons b bs ih =>
    have hb : s.push b = s.sinkAppend b := by simp [State.push, State.pushRaw, h]
    have := ih (s.sinkAppend b) (by simpa using h)
    simp only [State.pushAll, State.sinkAppendAll, List.foldl_cons, hb] at this ⊢
    exact this

/-- What PUSH of a list can do: it extends `out` and the port by one list, and writes the
producer's state. -/
theorem pushAll_cases (s : State) (bs : List Byte) :
    ∃ (w : List Byte) (r : RleState),
      s.pushAll bs = { s with out := s.out ++ w, port := s.port ++ w, rmode := r.rmode,
                              prev := r.prev, count := r.count } := by
  by_cases h : s.L.rle = 1#1
  · exact ⟨_, _, by rw [pushAll_rle s bs h, sinkAppendAll_eq]; rfl⟩
  · exact ⟨bs, s.rle, by rw [pushAll_raw s bs h, sinkAppendAll_eq]; rfl⟩

/-- What FINISH can do. -/
theorem finish_cases (s : State) :
    (s.L.rle = 1#1 ∧ s.finish = (s.sinkAppendAll (rleFlush s.rle)).setRle rleStart) ∨
      (s.L.rle ≠ 1#1 ∧ s.finish = s) := by
  by_cases h : s.L.rle = 1#1
  · exact .inl ⟨h, by simp [State.finish, State.finishRle, h]⟩
  · exact .inr ⟨h, by simp [State.finish, State.finishRaw, h]⟩

/-- PUSH of two lists one after the other. -/
theorem rlePushAll_append (r : RleState) (xs ys : List Byte) :
    rlePushAll r (xs ++ ys) =
      ((rlePushAll (rlePushAll r xs).1 ys).1,
        (rlePushAll r xs).2 ++ (rlePushAll (rlePushAll r xs).1 ys).2) := by
  induction xs generalizing r with
  | nil => simp [rlePushAll]
  | cons x xs ih => simp [rlePushAll, ih]

/-- What one PUSH in RLE mode can do, branch by branch (R124). -/
theorem rlePush_cases (r : RleState) (b : Byte) :
    (r.rmode = .literal ∧ r.prev = some b ∧
      rlePush r b = ({ r with rmode := .run, count := 0#8 }, [b])) ∨
    (r.rmode = .literal ∧ r.prev ≠ some b ∧ rlePush r b = ({ r with prev := some b }, [b])) ∨
    (r.rmode = .run ∧ r.prev = some b ∧ r.count + 1#8 = 255#8 ∧
      rlePush r b = ({ rmode := .literal, prev := none, count := r.count + 1#8 }, [255#8])) ∨
    (r.rmode = .run ∧ r.prev = some b ∧ r.count + 1#8 ≠ 255#8 ∧
      rlePush r b = ({ r with count := r.count + 1#8 }, [])) ∨
    (r.rmode = .run ∧ r.prev ≠ some b ∧
      rlePush r b = ({ r with rmode := .literal, prev := some b }, [r.count, b])) := by
  obtain ⟨m, p, n⟩ := r
  cases m <;> by_cases hp : p = some b <;> by_cases hn : n + 1#8 = 255#8 <;> simp [rlePush, hp, hn]

/-! ### The pixel read port -/

/-- What reading a list of coordinates can do: every read answered, or a first failure; either way
only the read log and the answers laid down change. -/
theorem readAll_cases (s : State) (cs : List Coord) :
    (∃ (colors : List Color) (px : List PixelEntry),
      colors.length = cs.length ∧
      s.readAll cs = .colors colors { s with reads := s.reads ++ cs, pixels := px }) ∨
    (∃ (before after : List Coord) (x y : Half) (px : List PixelEntry),
      cs = before ++ (x, y) :: after ∧
      s.readAll cs =
        .unavailable x y { s with reads := s.reads ++ before ++ [(x, y)], pixels := px }) := by
  induction cs generalizing s with
  | nil => exact .inl ⟨[], s.pixels, rfl, by simp [State.readAll]⟩
  | cons c cs ih =>
    obtain ⟨x, y⟩ := c
    cases ha : s.sourceAnswer x y with
    | fail =>
      refine .inr ⟨[], cs, x, y, s.pixels.eraseP (PixelEntry.isAt x y), rfl, ?_⟩
      simp [State.readAll, ha, State.sendRead]
    | ok col =>
      rcases ih (s.sendRead x y) with ⟨colors, px, hl, h⟩ | ⟨before, after, x', y', px, hc, h⟩
      · refine .inl ⟨col :: colors, px, by simp [hl], ?_⟩
        simp only [State.readAll, ha, h]
        simp [State.sendRead]
      · refine .inr ⟨(x, y) :: before, after, x', y', px, by simp [hc], ?_⟩
        simp only [State.readAll, ha, h]
        simp [State.sendRead]

/-- Reading one list of coordinates after another. -/
theorem readAll_append (s : State) (xs ys : List Coord) :
    s.readAll (xs ++ ys) =
      (match s.readAll xs with
       | .unavailable x y t => .unavailable x y t
       | .colors cs t =>
         (match t.readAll ys with
          | .unavailable x y u => .unavailable x y u
          | .colors ds u => .colors (cs ++ ds) u)) := by
  induction xs generalizing s with
  | nil => simp only [List.nil_append, State.readAll]; cases s.readAll ys <;> rfl
  | cons c xs ih =>
    obtain ⟨x, y⟩ := c
    simp only [List.cons_append, State.readAll]
    cases s.sourceAnswer x y with
    | fail => rfl
    | ok c =>
      simp only [ih]
      cases (s.sendRead x y).readAll xs with
      | unavailable => rfl
      | colors cs t => simp only []; cases t.readAll ys <;> rfl

/-- Reads that are all answered: one colour each, and only the read log and the answers laid down
change. -/
theorem readAll_colors (s : State) (cs : List Coord) (colors : List Color) (t : State)
    (h : s.readAll cs = .colors colors t) :
    colors.length = cs.length ∧ t = { s with reads := s.reads ++ cs, pixels := t.pixels } := by
  rcases readAll_cases s cs with ⟨_, _, hl, h'⟩ | ⟨_, _, _, _, _, _, h'⟩
  · rw [h'] at h; cases h; exact ⟨hl, rfl⟩
  · rw [h'] at h; cases h

/-- Reads whose first failure is at (x, y) end there: no later read is issued (R194). -/
theorem readAll_fail (s t : State) (before after : List Coord) (x y : Half) (cs : List Color)
    (hb : s.readAll before = .colors cs t) (hf : t.sourceAnswer x y = .fail) :
    s.readAll (before ++ (x, y) :: after) = .unavailable x y (t.sendRead x y) := by
  rw [readAll_append, hb]
  simp [State.readAll, hf]

/-! ### START -/

/-- What START can do: nothing, or a new session whose phase and error report validation gives. -/
theorem start_cases (s : State) :
    (s.phase.busy = true ∧ s.start = s) ∨
    (s.phase.busy = false ∧ validate (latchOf s.cfg s.dim) = 0#4 ∧
      s.start = { s.begin with phase := .hdr }) ∨
    (s.phase.busy = false ∧ validate (latchOf s.cfg s.dim) ≠ 0#4 ∧
      s.start = { s.begin with phase := .error, err := 1#2,
                               cause := validate (latchOf s.cfg s.dim) }) := by
  cases hb : s.phase.busy
  · by_cases hv : validate (latchOf s.cfg s.dim) = 0#4
    · exact .inr (.inl ⟨rfl, hv, by simp [State.start, hb, hv]⟩)
    · exact .inr (.inr ⟨rfl, hv, by simp [State.start, hb, hv, State.raise]⟩)
  · exact .inl ⟨rfl, by simp [State.start, hb]⟩

/-! ### The unit count -/

/-- N(L) fits the 32-bit cursor (R31). -/
theorem unitCount_lt (op : SessionOp) (L : Latched) : unitCount op L < 2 ^ 32 := by
  have hw := L.w.isLt
  have hh := L.h.isLt
  have key : ∀ a b, a < 65536 → b < 65536 → a * b < 2 ^ 32 := fun a b ha hb =>
    calc a * b ≤ 65535 * 65535 := Nat.mul_le_mul (by omega) (by omega)
      _ < 2 ^ 32 := by norm_num
  cases op <;> simp only [unitCount, ceilDiv] <;> apply key <;> omega

/-- Moving the cursor on by 1 does not wrap while a unit is left. -/
theorem cursor_succ (k : BitVec 32) (op : SessionOp) (L : Latched) (h : k.toNat < unitCount op L) :
    (k + 1#32).toNat = k.toNat + 1 := by
  have := unitCount_lt op L
  rw [BitVec.toNat_add]
  simp
  omega

/-! ### The session operation -/

/-- L selects an operation exactly when it passes validation. -/
theorem sessionOp_isSome (L : Latched) : (sessionOp L).isSome = true ↔ validate L = 0#4 := by
  unfold sessionOp
  split
  · rename_i h; simp only [h, iff_true]; repeat' split
    all_goals rfl
  · rename_i h; simp [h]

/-! ### A step -/

/-- A step on bytes that decode runs the decoded instruction. -/
theorem step_of_decode (s : State) (i : Instr) (hm : s.nextMove ≠ .reset)
    (hd : decode s.selectCtx (s.fetchBytes s.nextMove) = .ok i) : step s = exec i s.popMove := by
  unfold step
  split
  · contradiction
  · simp [hd]

/-- A step on bytes that do not decode. -/
theorem step_of_reject (s : State) (e : DecodeError) (hm : s.nextMove ≠ .reset)
    (hd : decode s.selectCtx (s.fetchBytes s.nextMove) = .reject e) :
    step s = rejectWord e s.popMove := by
  unfold step
  split
  · contradiction
  · simp [hd]

/-- What a step can do: the reset event, an instruction decoded from the fetched bytes, or a
rejected word. -/
theorem step_cases (s : State) :
    (s.nextMove = .reset ∧ step s = .next s.popMove.resetEvent) ∨
    (∃ i, s.nextMove ≠ .reset ∧ decode s.selectCtx (s.fetchBytes s.nextMove) = .ok i ∧
      step s = exec i s.popMove) ∨
    (∃ e, s.nextMove ≠ .reset ∧ decode s.selectCtx (s.fetchBytes s.nextMove) = .reject e ∧
      step s = rejectWord e s.popMove) := by
  by_cases hm : s.nextMove = .reset
  · exact .inl ⟨hm, by simp [step, hm]⟩
  · refine .inr ?_
    cases hd : decode s.selectCtx (s.fetchBytes s.nextMove) with
    | ok i => exact .inl ⟨i, hm, rfl, step_of_decode s i hm hd⟩
    | reject e => exact .inr ⟨e, hm, rfl, step_of_reject s e hm hd⟩

/-- What the ENGINE's bytes decode to, phase by phase (R100). -/
theorem decode_engine (s : State) :
    decode s.selectCtx (s.fetchBytes .engine) =
      (match s.phase with
       | .hdr => .ok .stepHdr
       | .body => .ok .stepUnit
       | .fin => .ok .stepFin
       | .idle | .done | .error => .reject .noEngineStep) := by
  unfold State.fetchBytes
  cases s.phase <;> simp [phaseCode, decode, decodePhaseByte, decodePhase]

end Sys2Proof.Machine
end

