-- ==== Sys2Proof/Laws/PerInstr.lean ====
section
/-! SUPPORT. Statements about every instruction as a word, one lemma per constructor: an
instruction's word has as many bytes as its format gives (30_encoding.md R90). -/

/-- The number of bytes of an instruction's word is its format's. -/
def Sys2Proof.Laws.EncodedWidth.Statement (i : Sys2Proof.Instr) : Prop :=
  (Sys2Proof.encode i).length = Sys2Proof.formatBytes i.format

namespace Sys2Proof.Laws.EncodedWidth

open Sys2Proof

theorem wrCfg (data : Word) : Statement (.wrCfg data) := rfl
theorem wrDim (data : Word) : Statement (.wrDim data) := rfl
theorem wrCtrl (data : Word) : Statement (.wrCtrl data) := rfl
theorem start (data : Word) : Statement (.start data) := rfl
theorem wrStatus (data : Word) : Statement (.wrStatus data) := rfl
theorem wrErrxy (data : Word) : Statement (.wrErrxy data) := rfl
theorem wrNone (addr : Byte) (data : Word) : Statement (.wrNone addr data) := rfl
theorem rdCfg : Statement (.rdCfg) := rfl
theorem rdDim : Statement (.rdDim) := rfl
theorem rdCtrl : Statement (.rdCtrl) := rfl
theorem rdStatus : Statement (.rdStatus) := rfl
theorem rdErrxy : Statement (.rdErrxy) := rfl
theorem rdNone (addr : Byte) : Statement (.rdNone addr) := rfl
theorem enc1Bit (f : CfgFields) : Statement (.enc1Bit f) := rfl
theorem enc4Bit (f : CfgFields) : Statement (.enc4Bit f) := rfl
theorem enc8Bit (f : CfgFields) : Statement (.enc8Bit f) := rfl
theorem enc8BitCol (f : CfgFields) : Statement (.enc8BitCol f) := rfl
theorem encRgb565 (f : CfgFields) : Statement (.encRgb565 f) := rfl
theorem encArgb4444 (f : CfgFields) : Statement (.encArgb4444 f) := rfl
theorem invalidFmt5 (f : CfgFields) : Statement (.invalidFmt5 f) := rfl
theorem invalidFmt67 (f : CfgFields) : Statement (.invalidFmt67 f) := rfl
theorem invalidOrient (f : CfgFields) : Statement (.invalidOrient f) := rfl
theorem invalid270Bit1 (f : CfgFields) : Statement (.invalid270Bit1 f) := rfl
theorem invalid270Bit4 (f : CfgFields) : Statement (.invalid270Bit4 f) := rfl
theorem invalid270Rgb565 (f : CfgFields) : Statement (.invalid270Rgb565 f) := rfl
theorem invalid270Argb4444 (f : CfgFields) : Statement (.invalid270Argb4444 f) := rfl
theorem invalidRows0 (f : CfgFields) : Statement (.invalidRows0 f) := rfl
theorem invalidRowsDiv (f : CfgFields) : Statement (.invalidRowsDiv f) := rfl
theorem idle : Statement (.idle) := rfl
theorem append (b : Byte) : Statement (.append b) := rfl
theorem pushRaw (b : Byte) : Statement (.pushRaw b) := rfl
theorem pushRle (b : Byte) : Statement (.pushRle b) := rfl
theorem finishRaw : Statement (.finishRaw) := rfl
theorem finishRle : Statement (.finishRle) := rfl
theorem stepHdr : Statement (.stepHdr) := rfl
theorem stepUnit : Statement (.stepUnit) := rfl
theorem stepFin : Statement (.stepFin) := rfl

end Sys2Proof.Laws.EncodedWidth
end

