-- ==== Sys2Proof/Laws/Run.lean ====
section
/-! SUPPORT. Runs of several steps, and what one move of each kind is. -/

namespace Sys2Proof.Machine

theorem run_zero (s : State) : Host.Core.run Sys2Proof.core 0 s = .next s := rfl

/-- One step, then the rest. -/
theorem run_succ (n : Nat) (s t : State) (h : step s = .next t) :
    Host.Core.run Sys2Proof.core (n + 1) s = Host.Core.run Sys2Proof.core n t := by
  simp only [Host.Core.run]
  rw [show Sys2Proof.core.step s = .next t from h]

/-- A run of a steps, then one of b. -/
theorem run_add (a b : Nat) (s t : State) (h : Host.Core.run Sys2Proof.core a s = .next t) :
    Host.Core.run Sys2Proof.core (a + b) s = Host.Core.run Sys2Proof.core b t := by
  induction a generalizing s with
  | zero => cases h; simp
  | succ a ih =>
    rw [show a + 1 + b = (a + b) + 1 by omega]
    simp only [Host.Core.run] at h ⊢
    split at h
    · rename_i u _
      exact ih u h
    · cases h
    · cases h

/-- A host transaction runs the operation its word decodes to. -/
theorem step_host (s : State) (w : BitVec 41) (h : s.nextMove = .host w) :
    step s =
      exec (decodeHbus (w.extractLsb' 40 1) (w.extractLsb' 32 8) (w.extractLsb' 0 32)) s.popMove := by
  apply step_of_decode _ _ (by simp [h])
  rw [h]
  exact decode_hbusBytes _ _

/-- A PBUS word runs the operation it decodes to under the latched RLE bit. -/
theorem step_producer (s : State) (w : BitVec 10) (h : s.nextMove = .producer w) :
    step s =
      exec (decodePbus s.selectCtx (w.extractLsb' 8 2) (w.extractLsb' 0 8)) s.popMove := by
  apply step_of_decode _ _ (by simp [h])
  rw [h]
  exact decode_pbusBytes _ _

/-- With no move laid down, taking the next move off changes nothing. -/
theorem popMove_of_nil (s : State) (h : s.schedule = []) : s.popMove = s := by
  cases s
  simp only at h
  subst h
  rfl

/-- The ENGINE's turn in a phase without an engine step changes nothing (R28). -/
theorem step_of_idle_phase (s : State) (h : s.schedule = []) (hp : s.phase.busy = false) :
    step s = .next s := by
  have hn : s.nextMove = .engine := by simp [State.nextMove, h]
  have hd : decode s.selectCtx (s.fetchBytes s.nextMove) = .reject .noEngineStep := by
    rw [hn, decode_engine]
    revert hp
    cases s.phase <;> simp [Phase.busy]
  rw [step_of_reject s _ (by simp [hn]) hd, popMove_of_nil s h]
  rfl

/-- The ENGINE's turn in a phase that has an engine step (R28, R100). -/
theorem step_of_busy_phase (s : State) (h : s.schedule = []) :
    (s.phase = .hdr → step s = exec .stepHdr s) ∧
    (s.phase = .body → step s = exec .stepUnit s) ∧
    (s.phase = .fin → step s = exec .stepFin s) := by
  have hn : s.nextMove = .engine := by simp [State.nextMove, h]
  have hd := decode_engine s
  rw [← hn] at hd
  have hr : s.nextMove ≠ .reset := by simp [hn]
  refine ⟨fun hp => ?_, fun hp => ?_, fun hp => ?_⟩ <;>
    (rw [hp] at hd; rw [step_of_decode s _ hr hd, popMove_of_nil s h])

end Sys2Proof.Machine
end

