-- ==== Sys2Proof/Tests/Slice0.lean ====
section
/-! SUPPORT. Tests of one step each, their expected values from spec/95_test_vectors.md and from
words written out by the spec's encodings; and a witness for the hypotheses of every statement. -/

namespace Sys2Proof.Tests

open Sys2Proof Sys2Proof.Machine

/-! ## Helpers -/

/-- A field of the next state, if there is one. -/
def field {α : Type} (f : State → α) : Answer → Option α
  | .next t => some (f t)
  | .fault _ => none
  | .refused _ => none

/-- The fault an answer stops with, if any. -/
def faultOf : Answer → Option Fault
  | .fault r => some r
  | .next _ => none
  | .refused _ => none

/-- CFG fields in the order FMT, HDRW, ORIENT, RLE, MONO, ROWS. -/
def fields (fmt : BitVec 3) (hdrw : BitVec 1) (orient : BitVec 2) (rle mono : BitVec 1)
    (rows : Half) : CfgFields := ⟨fmt, hdrw, orient, rle, mono, rows⟩

/-- A latched configuration of a CFG word and a DIM word. -/
def session (phase : Phase) (cfg dim : Word) : State :=
  { State.reset with cfg := cfg, dim := dim, L := latchOf cfg dim, phase := phase }

/-- A pixel source answering one coordinate. -/
def pixel (x y : Half) (r g b a : Byte) : PixelEntry := ⟨x, y, .ok ⟨r, g, b, a⟩⟩

/-- The selection context with RLE off and the given height. -/
def ctx (rle : BitVec 1) (h : Half) : SelectCtx := ⟨rle, h⟩

/-! ## Well-formedness: each check refuses a term that is not the row's -/

theorem test_wellFormed_hbus_refuses :
    (Instr.wrCtrl 1#32).wellFormed (ctx 0#1 1#16) = false ∧
    (Instr.start 2#32).wellFormed (ctx 0#1 1#16) = false ∧
    (Instr.wrNone 0x10#8 0#32).wellFormed (ctx 0#1 1#16) = false ∧
    (Instr.rdNone 0x0C#8).wellFormed (ctx 0#1 1#16) = false := by decide

theorem test_wellFormed_operations_refuse :
    (Instr.enc1Bit (fields 1#3 0#1 0#2 0#1 0#1 1#16)).wellFormed (ctx 0#1 8#16) = false ∧
    (Instr.enc1Bit (fields 0#3 0#1 2#2 0#1 0#1 1#16)).wellFormed (ctx 0#1 8#16) = false ∧
    (Instr.enc1Bit (fields 0#3 0#1 0#2 0#1 0#1 0#16)).wellFormed (ctx 0#1 8#16) = false ∧
    (Instr.enc1Bit (fields 0#3 0#1 0#2 0#1 0#1 3#16)).wellFormed (ctx 0#1 8#16) = false ∧
    (Instr.enc4Bit (fields 2#3 0#1 0#2 0#1 0#1 1#16)).wellFormed (ctx 0#1 8#16) = false ∧
    (Instr.enc4Bit (fields 1#3 0#1 2#2 0#1 0#1 1#16)).wellFormed (ctx 0#1 8#16) = false ∧
    (Instr.enc8Bit (fields 2#3 0#1 2#2 0#1 0#1 1#16)).wellFormed (ctx 0#1 8#16) = false ∧
    (Instr.enc8BitCol (fields 2#3 0#1 1#2 0#1 0#1 1#16)).wellFormed (ctx 0#1 8#16) = false ∧
    (Instr.encRgb565 (fields 3#3 0#1 2#2 0#1 0#1 1#16)).wellFormed (ctx 0#1 8#16) = false ∧
    (Instr.encArgb4444 (fields 3#3 0#1 0#2 0#1 0#1 1#16)).wellFormed (ctx 0#1 8#16) = false := by
  decide

theorem test_wellFormed_illegal_words_refuse :
    (Instr.invalidFmt5 (fields 6#3 0#1 0#2 0#1 0#1 1#16)).wellFormed (ctx 0#1 8#16) = false ∧
    (Instr.invalidFmt67 (fields 5#3 0#1 0#2 0#1 0#1 1#16)).wellFormed (ctx 0#1 8#16) = false ∧
    (Instr.invalidOrient (fields 5#3 0#1 3#2 0#1 0#1 1#16)).wellFormed (ctx 0#1 8#16) = false ∧
    (Instr.invalidOrient (fields 1#3 0#1 2#2 0#1 0#1 1#16)).wellFormed (ctx 0#1 8#16) = false ∧
    (Instr.invalid270Bit1 (fields 0#3 0#1 1#2 0#1 0#1 1#16)).wellFormed (ctx 0#1 8#16) = false ∧
    (Instr.invalid270Bit4 (fields 0#3 0#1 2#2 0#1 0#1 1#16)).wellFormed (ctx 0#1 8#16) = false ∧
    (Instr.invalid270Rgb565 (fields 4#3 0#1 2#2 0#1 0#1 1#16)).wellFormed (ctx 0#1 8#16) = false ∧
    (Instr.invalid270Argb4444 (fields 2#3 0#1 2#2 0#1 0#1 1#16)).wellFormed (ctx 0#1 8#16) = false ∧
    (Instr.invalidRows0 (fields 0#3 0#1 0#2 0#1 0#1 1#16)).wellFormed (ctx 0#1 8#16) = false ∧
    (Instr.invalidRows0 (fields 0#3 0#1 2#2 0#1 0#1 0#16)).wellFormed (ctx 0#1 8#16) = false ∧
    (Instr.invalidRowsDiv (fields 0#3 0#1 0#2 0#1 0#1 2#16)).wellFormed (ctx 0#1 8#16) = false ∧
    (Instr.invalidRowsDiv (fields 0#3 0#1 0#2 0#1 0#1 0#16)).wellFormed (ctx 0#1 8#16) = false := by
  decide

theorem test_wellFormed_producer_refuses :
    (Instr.pushRaw 7#8).wellFormed (ctx 1#1 1#16) = false ∧
    (Instr.pushRle 7#8).wellFormed (ctx 0#1 1#16) = false ∧
    Instr.finishRaw.wellFormed (ctx 1#1 1#16) = false ∧
    Instr.finishRle.wellFormed (ctx 0#1 1#16) = false := by decide

/-! ## Decoding: words written out from R91 to R100, bytes lowest first -/

/-- WE at bit 40, ADDR at [39:32], DATA at [31:0]; the writes of T1 to T6 (R91, R220). -/
theorem test_decode_writes :
    hbusBytes 0b10000000000000000000000011111111101001011#41 =
      [0x4B#8, 0xFF#8, 0x01#8, 0x00#8, 0x00#8, 0x01#8] ∧
    decode (ctx 0#1 1#16) [0x4B#8, 0xFF#8, 0x01#8, 0x00#8, 0x00#8, 0x01#8] =
      .ok (.wrCfg 0x0001FF4B#32) ∧
    decode (ctx 0#1 1#16) [0x0A#8, 0x00#8, 0x14#8, 0x00#8, 0x04#8, 0x01#8] =
      .ok (.wrDim 0x0014000A#32) ∧
    decode (ctx 0#1 1#16) [0x00#8, 0x00#8, 0x00#8, 0x00#8, 0x08#8, 0x01#8] = .ok (.wrCtrl 0#32) ∧
    decode (ctx 0#1 1#16) [0x01#8, 0x00#8, 0x00#8, 0x00#8, 0x08#8, 0x01#8] = .ok (.start 1#32) ∧
    decode (ctx 0#1 1#16) [0x00#8, 0x00#8, 0x00#8, 0x00#8, 0x0C#8, 0x01#8] = .ok (.wrStatus 0#32) ∧
    decode (ctx 0#1 1#16) [0x05#8, 0x00#8, 0x00#8, 0x00#8, 0x10#8, 0x01#8] = .ok (.wrErrxy 5#32) ∧
    decode (ctx 0#1 1#16) [0x01#8, 0x00#8, 0x00#8, 0x00#8, 0x01#8, 0x01#8] =
      .ok (.wrNone 0x01#8 1#32) := by decide

/-- The reads of T7 to T12 (R91, R220). -/
theorem test_decode_reads :
    decode (ctx 0#1 1#16) [0x00#8, 0x00#8, 0x00#8, 0x00#8, 0x00#8, 0x00#8] = .ok .rdCfg ∧
    decode (ctx 0#1 1#16) [0x00#8, 0x00#8, 0x00#8, 0x00#8, 0x04#8, 0x00#8] = .ok .rdDim ∧
    decode (ctx 0#1 1#16) [0x00#8, 0x00#8, 0x00#8, 0x00#8, 0x08#8, 0x00#8] = .ok .rdCtrl ∧
    decode (ctx 0#1 1#16) [0x00#8, 0x00#8, 0x00#8, 0x00#8, 0x0C#8, 0x00#8] = .ok .rdStatus ∧
    decode (ctx 0#1 1#16) [0x00#8, 0x00#8, 0x00#8, 0x00#8, 0x10#8, 0x00#8] = .ok .rdErrxy ∧
    decode (ctx 0#1 1#16) [0x00#8, 0x00#8, 0x00#8, 0x00#8, 0x0D#8, 0x00#8] = .ok (.rdNone 0x0D#8) ∧
    decode (ctx 0#1 1#16) [0x00#8, 0x00#8, 0x00#8, 0x00#8, 0x20#8, 0x00#8] = .ok (.rdNone 0x20#8) := by
  decide

/-- FMT [2:0], HDRW [3], ORIENT [5:4], RLE [6], MONO [7], ROWS [31:16] (R92 to R96): ROWS 2, MONO 1,
RLE 1, ORIENT 1, HDRW 1, FMT 0 is 0x000200D8. -/
theorem test_decode_operations :
    cfgwBytes 0b00000000000000100000000011011000#32 = [0xD8#8, 0x00#8, 0x02#8, 0x00#8] ∧
    decode (ctx 0#1 10#16) [0xD8#8, 0x00#8, 0x02#8, 0x00#8] =
      .ok (.enc1Bit (fields 0#3 1#1 1#2 1#1 1#1 2#16)) ∧
    decode (ctx 0#1 3#16) [0x19#8, 0x00#8, 0x01#8, 0x00#8] =
      .ok (.enc4Bit (fields 1#3 1#1 1#2 0#1 0#1 1#16)) ∧
    decode (ctx 0#1 2#16) [0x42#8, 0x00#8, 0x01#8, 0x00#8] =
      .ok (.enc8Bit (fields 2#3 0#1 0#2 1#1 0#1 1#16)) ∧
    decode (ctx 0#1 2#16) [0x22#8, 0x00#8, 0x01#8, 0x00#8] =
      .ok (.enc8BitCol (fields 2#3 0#1 2#2 0#1 0#1 1#16)) ∧
    decode (ctx 0#1 1#16) [0x4B#8, 0x00#8, 0x01#8, 0x00#8] =
      .ok (.encRgb565 (fields 3#3 1#1 0#2 1#1 0#1 1#16)) ∧
    decode (ctx 0#1 1#16) [0x14#8, 0x00#8, 0x00#8, 0x01#8] =
      .ok (.encArgb4444 (fields 4#3 0#1 1#2 0#1 0#1 0x100#16)) := by decide

/-- The CFG words of E1 to E6, and one of each other illegal row (R97). -/
theorem test_decode_illegal_words :
    decode (ctx 0#1 0#16) [0x35#8, 0x00#8, 0x01#8, 0x00#8] =
      .ok (.invalidFmt5 (fields 5#3 0#1 3#2 0#1 0#1 1#16)) ∧
    decode (ctx 0#1 0#16) [0x07#8, 0x00#8, 0x01#8, 0x00#8] =
      .ok (.invalidFmt67 (fields 7#3 0#1 0#2 0#1 0#1 1#16)) ∧
    decode (ctx 0#1 0#16) [0x31#8, 0x00#8, 0x01#8, 0x00#8] =
      .ok (.invalidOrient (fields 1#3 0#1 3#2 0#1 0#1 1#16)) ∧
    decode (ctx 0#1 0#16) [0x20#8, 0x00#8, 0x00#8, 0x00#8] =
      .ok (.invalid270Bit1 (fields 0#3 0#1 2#2 0#1 0#1 0#16)) ∧
    decode (ctx 0#1 0#16) [0x21#8, 0x00#8, 0x00#8, 0x00#8] =
      .ok (.invalid270Bit4 (fields 1#3 0#1 2#2 0#1 0#1 0#16)) ∧
    decode (ctx 0#1 0#16) [0x23#8, 0x00#8, 0x01#8, 0x00#8] =
      .ok (.invalid270Rgb565 (fields 3#3 0#1 2#2 0#1 0#1 1#16)) ∧
    decode (ctx 0#1 0#16) [0x24#8, 0x00#8, 0x01#8, 0x00#8] =
      .ok (.invalid270Argb4444 (fields 4#3 0#1 2#2 0#1 0#1 1#16)) ∧
    decode (ctx 0#1 8#16) [0x00#8, 0x00#8, 0x00#8, 0x00#8] =
      .ok (.invalidRows0 (fields 0#3 0#1 0#2 0#1 0#1 0#16)) ∧
    decode (ctx 0#1 10#16) [0x00#8, 0x00#8, 0x03#8, 0x00#8] =
      .ok (.invalidRowsDiv (fields 0#3 0#1 0#2 0#1 0#1 3#16)) := by decide

/-- OP [9:8], DATA [7:0], the mode from the latched bit: the words of B1 to B5 (R98, R99). -/
theorem test_decode_producer :
    pbusBytes 0b1001111111#10 = [0x7F#8, 0x02#8] ∧
    decode (ctx 0#1 1#16) [0x00#8, 0x00#8] = .ok .idle ∧
    decode (ctx 1#1 1#16) [0x0A#8, 0x01#8] = .ok (.append 0x0A#8) ∧
    decode (ctx 0#1 1#16) [0x7F#8, 0x02#8] = .ok (.pushRaw 0x7F#8) ∧
    decode (ctx 1#1 1#16) [0x05#8, 0x02#8] = .ok (.pushRle 0x05#8) ∧
    decode (ctx 0#1 1#16) [0x00#8, 0x03#8] = .ok .finishRaw ∧
    decode (ctx 1#1 1#16) [0x00#8, 0x03#8] = .ok .finishRle := by decide

/-- PHASE codes (R100): 0, 4 and 5 are no engine step, 6 and 7 are never held. -/
theorem test_decode_phases :
    decode (ctx 0#1 1#16) [1#8] = .ok .stepHdr ∧
    decode (ctx 0#1 1#16) [2#8] = .ok .stepUnit ∧
    decode (ctx 0#1 1#16) [3#8] = .ok .stepFin ∧
    decode (ctx 0#1 1#16) [0#8] = .reject .noEngineStep ∧
    decode (ctx 0#1 1#16) [4#8] = .reject .noEngineStep ∧
    decode (ctx 0#1 1#16) [5#8] = .reject .noEngineStep ∧
    decode (ctx 0#1 1#16) [6#8] = .reject .phaseNeverHeld ∧
    decode (ctx 0#1 1#16) [7#8] = .reject .phaseNeverHeld ∧
    decode (ctx 0#1 1#16) [8#8] = .reject .phaseBeyond3 := by decide

/-- Bytes that are no word of a format are rejected by name (R90, R95). -/
theorem test_decode_rejects :
    decode (ctx 0#1 1#16) [] = .reject (.badLength 0) ∧
    decode (ctx 0#1 1#16) [0#8, 0#8, 0#8] = .reject (.badLength 3) ∧
    decode (ctx 0#1 1#16) [0#8, 4#8] = .reject .pbusBeyond10 ∧
    decode (ctx 0#1 1#16) [3#8, 1#8, 1#8, 0#8] = .reject .cfgwReserved ∧
    decode (ctx 0#1 1#16) [0#8, 0#8, 0#8, 0#8, 0#8, 2#8] = .reject .hbusBeyond41 := by decide

/-- Table words of each format: the decoder's answer, and the step on the word placed after reset. -/
theorem test_table_words :
    decodeTableWord 48 0x10800000001 = some (.start 1#32) ∧
    decodeTableWord 32 0x00000022 = some (.enc8BitCol (fields 2#3 0#1 2#2 0#1 0#1 0#16)) ∧
    decodeTableWord 16 0x100 = some (.append 0#8) ∧
    decodeTableWord 8 2 = some .stepUnit ∧
    (State.reset.withFetchWord 48 0x10800000001).nextMove = .host (wrWord 0x08#8 1#32) ∧
    field State.phase (step (State.reset.withFetchWord 48 0x10800000001)) = some .hdr ∧
    field State.out (step (State.reset.withFetchWord 16 0x100)) = some [0#8] ∧
    field State.phase (step (State.reset.withFetchWord 8 3)) = some .done ∧
    field State.cause (step (State.reset.withFetchWord 32 0x00000023)) = some 3#4 := by decide

/-! ## The register window: T1 to T13 -/

theorem test_wrCfg_drops_reserved :
    field State.cfg (exec (.wrCfg 0x0001FF4B#32) State.reset) = some 0x0001004B#32 := by decide

theorem test_wrDim_width_and_height :
    field State.dim (exec (.wrDim 0x0014000A#32) State.reset) = some 0x0014000A#32 ∧
    (latchOf 0#32 0x0014000A#32).w = 10#16 ∧ (latchOf 0#32 0x0014000A#32).h = 20#16 := by decide

theorem test_wrCtrl_zero_does_nothing :
    field id (exec (.wrCtrl 0xFFFFFFFE#32) State.reset) = some State.reset := by decide

/-- T13: a START while BUSY is ignored (R266). -/
theorem test_start_while_busy_is_ignored :
    field id (exec (.start 1#32) (session .body 0x0001004B#32 0x00010002#32)) =
      some (session .body 0x0001004B#32 0x00010002#32) := by decide

/-- E3 and E6: the first cause in order wins, and nothing is written. -/
theorem test_start_reports_first_cause :
    field State.statusWord (exec (.start 1#32) { State.reset with cfg := 0x00010023#32 }) =
      some 0x37#32 ∧
    field State.statusWord (exec (.start 1#32) { State.reset with cfg := 0x00000020#32 }) =
      some 0x37#32 ∧
    field State.out (exec (.start 1#32) { State.reset with cfg := 0x00010035#32 }) = some [] := by
  decide

/-- E1, E2, E4, E5, E8: the causes by number, and a height of 0. -/
theorem test_validate_vectors :
    validate (latchOf 0x00010035#32 0#32) = 1#4 ∧
    validate (latchOf 0x00010031#32 0#32) = 2#4 ∧
    validate (latchOf 0x00000000#32 0x00080001#32) = 4#4 ∧
    validate (latchOf 0x00030000#32 0x000A0001#32) = 5#4 ∧
    validate (latchOf 0x00000001#32 0x00020001#32) = 0#4 ∧
    validate (latchOf 0x00070000#32 0x00000005#32) = 0#4 := by decide

/-- T4, T5, T6. -/
theorem test_ignored_writes :
    field id (exec (.wrStatus 0#32) State.reset) = some State.reset ∧
    field id (exec (.wrErrxy 5#32) State.reset) = some State.reset ∧
    field id (exec (.wrNone 0x01#8 1#32) State.reset) = some State.reset := by decide

/-- T7, T8, T9, T11, T12. -/
theorem test_reads_after_reset :
    field State.rdata (exec .rdCfg State.reset) = some (some 0x00010000#32) ∧
    field State.rdata (exec .rdDim State.reset) = some (some 0#32) ∧
    field State.rdata (exec .rdCtrl State.reset) = some (some 0#32) ∧
    field State.rdata (exec (.rdNone 0x0D#8) State.reset) = some (some 0#32) ∧
    field State.rdata (exec (.rdNone 0x20#8) State.reset) = some (some 0#32) := by decide

/-- T10: STATUS while BUSY. -/
theorem test_rdStatus_while_busy :
    field State.rdata (exec .rdStatus (session .body 0x0001004B#32 0x00010002#32)) =
      some (some 1#32) := by decide

/-- P4: STATUS and ERRXY after the failed read at (1, 1). -/
theorem test_reads_after_source_failure :
    field State.rdata
      (exec .rdStatus ((session .body 0x00010042#32 0x00020003#32).raise (.sourceUnavailable 1#16 1#16))) =
        some (some 0x0B#32) ∧
    field State.rdata
      (exec .rdErrxy ((session .body 0x00010042#32 0x00020003#32).raise (.sourceUnavailable 1#16 1#16))) =
        some (some 0x00010001#32) := by decide

/-! ## Session operations: O1 to O8, F1 to F6, L2.7, G1 to G8 -/

theorem test_on_predicate :
    pixelOn 0#1 ⟨0#8, 0#8, 0#8, 255#8⟩ = true ∧ pixelOn 0#1 ⟨0#8, 0#8, 1#8, 0#8⟩ = false ∧
    pixelOn 1#1 ⟨1#8, 0#8, 0#8, 0#8⟩ = true ∧ pixelOn 1#1 ⟨0#8, 255#8, 255#8, 0#8⟩ = false := by
  decide

/-- S5: on bits 1,0,1,1,0,0,0,0 from the top row give 13. -/
theorem test_packBand_s5 :
    packBand 1#1 0 ([1#8, 0#8, 1#8, 1#8, 0#8, 0#8, 0#8, 0#8].map fun r => ⟨r, 0#8, 0#8, 0#8⟩) =
      13#8 := by decide

/-- O8: 1×10 at 180°, band 1: logical row 9 is physical row 0, bit 1. -/
theorem test_enc1Bit_half_turn :
    field State.unitBytes
      (exec (.enc1Bit (fields 0#3 0#1 1#2 0#1 0#1 1#16))
        { session .body 0x00010010#32 0x000A0001#32 with
            k := 1#32, pixels := [pixel 0#16 0#16 0#8 0#8 0#8 0#8, pixel 0#16 1#16 9#8 0#8 0#8 0#8] }) =
      some [0x02#8] := by decide

/-- F1 to F4. -/
theorem test_packPair :
    packPair 0x00#8 0x00#8 = 0xFF#8 ∧ packPair 0xFF#8 0xFF#8 = 0x00#8 ∧
    packPair 0x80#8 0x10#8 = 0xE7#8 ∧ packPair 0x0F#8 0xF0#8 = 0x0F#8 := by decide

/-- F5, F6: an off-canvas bottom has grey 255, whatever GRAY is. -/
theorem test_enc4Bit_off_canvas :
    field State.unitBytes
      (exec (.enc4Bit (fields 1#3 0#1 0#2 0#1 0#1 1#16))
        { session .body 0x00010001#32 0x00010001#32 with
            pixels := [pixel 0#16 0#16 1#8 2#8 3#8 4#8] }) =
      some [packPair (Config.gray ⟨1#8, 2#8, 3#8, 4#8⟩) 255#8] ∧
    packPair 0x00#8 255#8 = 0x0F#8 ∧ packPair 0x10#8 255#8 = 0x0E#8 := by
  exact ⟨rfl, by decide, by decide⟩

/-- L2.7: 3×2 at 180°, unit 1 reads (1, 1). -/
theorem test_enc8Bit_half_turn_reads :
    field State.reads
      (exec (.enc8Bit (fields 2#3 0#1 1#2 0#1 0#1 1#16))
        { session .body 0x00010012#32 0x00020003#32 with
            k := 1#32, pixels := [pixel 1#16 1#16 100#8 0#8 0#8 0#8] }) =
      some [(1#16, 1#16)] := by decide

/-- L2.7: 3×2 at 270°, unit 1 reads (0, 1) and returns 255 - grey. -/
theorem test_enc8BitCol_column_major :
    field (fun t => (t.reads, t.unitBytes))
      (exec (.enc8BitCol (fields 2#3 0#1 2#2 0#1 0#1 1#16))
        { session .body 0x00010022#32 0x00020003#32 with
            k := 1#32, pixels := [pixel 0#16 1#16 100#8 0#8 0#8 0#8] }) =
      some ([(0#16, 1#16)], [255#8 - Config.gray ⟨100#8, 0#8, 0#8, 0#8⟩]) ∧
    packGray 0#8 = 255#8 ∧ packGray 255#8 = 0#8 ∧ packGray 100#8 = 155#8 := by
  exact ⟨rfl, by decide, by decide, by decide⟩

/-- G6. -/
theorem test_encRgb565 :
    field State.unitBytes
      (exec (.encRgb565 (fields 3#3 0#1 0#2 0#1 0#1 1#16))
        { session .body 0x00010003#32 0x00010001#32 with
            pixels := [pixel 0#16 0#16 0x12#8 0x34#8 0x56#8 0#8] }) =
      some [0xAA#8, 0x11#8] := by decide

/-- G1, G2, G3, G5, S6. -/
theorem test_packRgb565 :
    packRgb565 ⟨255#8, 0#8, 0#8, 0#8⟩ = 0xF800#16 ∧ packRgb565 ⟨0#8, 255#8, 0#8, 0#8⟩ = 0x07E0#16 ∧
    packRgb565 ⟨0#8, 0#8, 255#8, 0#8⟩ = 0x001F#16 ∧ packRgb565 ⟨8#8, 4#8, 8#8, 0#8⟩ = 0x0821#16 ∧
    packRgb565 ⟨255#8, 255#8, 255#8, 0#8⟩ = 0xFFFF#16 := by decide

/-- G7. -/
theorem test_encArgb4444 :
    field State.unitBytes
      (exec (.encArgb4444 (fields 4#3 0#1 0#2 0#1 0#1 1#16))
        { session .body 0x00010004#32 0x00010001#32 with
            pixels := [pixel 0#16 0#16 0x12#8 0x34#8 0x56#8 0x78#8] }) =
      some [0x35#8, 0x71#8] := by decide

/-- S7, G8, G9. -/
theorem test_packArgb4444 :
    packArgb4444 ⟨0#8, 0#8, 0#8, 255#8⟩ = 0xF000#16 ∧
    packArgb4444 ⟨255#8, 255#8, 255#8, 0#8⟩ = 0x0FFF#16 ∧
    packArgb4444 ⟨15#8, 15#8, 15#8, 15#8⟩ = 0#16 := by decide

/-- No unit k: the model's own stop. -/
theorem test_operation_without_a_unit_stops :
    faultOf (exec (.enc8Bit (fields 2#3 0#1 0#2 0#1 0#1 1#16))
      (session .body 0x00010002#32 0x00000005#32)) = some .noSuchUnit := by decide

/-- Cause 1, 2, 3, 4, 5 of the illegal words (R241): STATUS afterwards. -/
theorem test_illegal_words_status :
    field State.statusWord (exec (.invalidFmt67 (fields 7#3 0#1 0#2 0#1 0#1 1#16)) State.reset) =
      some 0x17#32 ∧
    field State.statusWord (exec (.invalidOrient (fields 1#3 0#1 3#2 0#1 0#1 1#16)) State.reset) =
      some 0x27#32 ∧
    field State.statusWord (exec (.invalid270Bit4 (fields 1#3 0#1 2#2 0#1 0#1 1#16)) State.reset) =
      some 0x37#32 ∧
    field State.statusWord (exec (.invalidRows0 (fields 0#3 0#1 0#2 0#1 0#1 0#16)) State.reset) =
      some 0x47#32 ∧
    field State.statusWord (exec (.invalidRowsDiv (fields 0#3 0#1 0#2 0#1 0#1 3#16)) State.reset) =
      some 0x57#32 := by decide

/-! ## The producer: V1 to V20, B1 to B5 -/

theorem test_encodeRle_short :
    encodeRle [] = [] ∧ encodeRle [5#8, 5#8] = [5#8, 5#8, 0#8] ∧
    encodeRle [5#8, 5#8, 6#8, 6#8] = [5#8, 5#8, 0#8, 6#8, 6#8, 0#8] ∧
    encodeRle [1#8, 1#8, 2#8, 2#8, 2#8, 3#8] = [1#8, 1#8, 0#8, 2#8, 2#8, 1#8, 3#8] ∧
    encodeRle [9#8, 9#8, 0#8] = [9#8, 9#8, 0#8, 0#8] := by decide

/-- V11 (0xFF as data), and the malformed stream of P4. -/
theorem test_rle_of_ff_and_malformed :
    encodeRle [0xFF#8, 0xFF#8, 0xFF#8] = [0xFF#8, 0xFF#8, 1#8] ∧
    decodeRle [5#8, 5#8] = none := by decide

/-- V15: the cap. -/
theorem test_encodeRle_cap : encodeRle (List.replicate 257 0#8) = [0#8, 0#8, 255#8] := by
  decide +kernel

/-- V18: 500 × 0x7F. -/
theorem test_encodeRle_500 :
    encodeRle (List.replicate 500 0x7F#8) = [0x7F#8, 0x7F#8, 0xFF#8, 0x7F#8, 0x7F#8, 0xF1#8] := by
  decide +kernel

/-- B5, B3: IDLE and APPEND. -/
theorem test_idle_and_append :
    field id (exec .idle State.reset) = some State.reset ∧
    field (fun t => (t.out, t.rle)) (exec (.append 0x0A#8) State.reset) =
      some ([0x0A#8], rleStart) := by decide

/-- B4: the fourth word, 0x206 after three 0x205, appends [1, 6]. -/
theorem test_pushRle_closes_a_run :
    field (fun t => (t.out, t.rle))
      (exec (.pushRle 6#8)
        { State.reset with rmode := .run, prev := some 5#8, count := 1#8, out := [5#8, 5#8] }) =
      some ([5#8, 5#8, 1#8, 6#8], ⟨.literal, some 6#8, 1#8⟩) := by decide

/-- R124, the cap: the 255th counted repeat. -/
theorem test_pushRle_at_the_cap :
    field (fun t => (t.out, t.rle))
      (exec (.pushRle 5#8) { State.reset with rmode := .run, prev := some 5#8, count := 254#8 }) =
      some ([255#8], ⟨.literal, none, 255#8⟩) := by decide

/-- B1. -/
theorem test_pushRaw_finishRaw :
    field State.out (exec (.pushRaw 0x7F#8) State.reset) = some [0x7F#8] ∧
    field id (exec .finishRaw State.reset) = some State.reset := by decide

/-- B2: the trailing count 0 at FINISH. -/
theorem test_finishRle_count_zero :
    field (fun t => (t.out, t.rle))
      (exec .finishRle { State.reset with rmode := .run, prev := some 0x7F#8, count := 0#8 }) =
      some ([0#8], rleStart) := by decide

/-! ## The engine steps: H1 to H8, P1, P4 -/

/-- H1, H2. -/
theorem test_stepHdr :
    field State.out (exec .stepHdr (session .hdr 0x00020008#32 0x0014000A#32)) =
      some [10#8, 0#8, 10#8, 0#8] ∧
    field State.out (exec .stepHdr (session .hdr 0x00010002#32 0x0005012C#32)) =
      some [0#8, 44#8, 5#8] := by decide

/-- H3, H6, and H7's header with its phase. -/
theorem test_stepHdr_wraps_and_empty :
    field State.out (exec .stepHdr (session .hdr 0x00010000#32 0x02000100#32)) = some [0#8, 0#8] ∧
    field State.out (exec .stepHdr (session .hdr 0x00010004#32 0x0014000A#32)) =
      some [1#8, 10#8, 20#8] ∧
    field (fun t => (t.out, t.phase)) (exec .stepHdr (session .hdr 0x0001004B#32 0x00050000#32)) =
      some ([0#8, 0#8, 0#8, 5#8, 0#8], .fin) := by decide

/-- P1, step 5: the second FF enters RUN. -/
theorem test_stepUnit_white :
    field (fun t => (t.out, t.k, t.phase, t.rle))
      (exec .stepUnit
        { session .body 0x0001004B#32 0x00010002#32 with
            pixels := [pixel 0#16 0#16 255#8 255#8 255#8 255#8] }) =
      some ([0xFF#8, 0xFF#8], 1#32, .body, ⟨.run, some 0xFF#8, 0#8⟩) := by decide

/-- P4: the read at (1, 1) fails in unit 4; nothing is pushed. -/
theorem test_stepUnit_source_fails :
    field (fun t => (t.statusWord, t.errxy, t.k, t.out, t.rle))
      (exec .stepUnit
        { session .body 0x00010042#32 0x00020003#32 with
            k := 4#32, rmode := .run, prev := some 0xFF#8, count := 2#8, out := [0xFF#8, 0xFF#8],
            pixels := [⟨1#16, 1#16, .fail⟩] }) =
      some (0x0B#32, 0x00010001#32, 4#32, [0xFF#8, 0xFF#8], ⟨.run, some 0xFF#8, 2#8⟩) := by
  decide

/-- P1, step 7. -/
theorem test_stepFin_flushes :
    field (fun t => (t.out, t.phase, t.rle))
      (exec .stepFin
        { session .fin 0x0001004B#32 0x00010002#32 with
            rmode := .run, prev := some 0xFF#8, count := 2#8, out := [0xFF#8, 0xFF#8] }) =
      some ([0xFF#8, 0xFF#8, 2#8], .done, rleStart) := by decide

/-- L2.10: a reset while BUSY. -/
theorem test_reset_while_busy :
    field id (step { session .body 0x0001004B#32 0x00010002#32 with
      out := [1#8], port := [1#8], schedule := [.reset] }) =
      some { State.reset with port := [1#8] } := by decide

/-! ## Witnesses: states and operands that meet the hypotheses of each statement -/

/-- A BUSY session with an open run, in the middle of a 3×2 8BIT image with RLE on (P4 before its
failing read). -/
def midRun : State :=
  { session .body 0x00010042#32 0x00020003#32 with
      k := 4#32, rmode := .run, prev := some 0xFF#8, count := 2#8,
      out := [0x00#8, 0x03#8, 0x02#8, 0xFF#8, 0xFF#8],
      port := [0x00#8, 0x03#8, 0x02#8, 0xFF#8, 0xFF#8] }

theorem witness_midRun_meets_the_invariant : midRun.Inv where
  cfgReserved := by decide
  errIffError := by decide
  causeIffInvalid := by decide
  errInRange := by decide
  causeInRange := by decide
  errxyCleared := by decide
  runHasByte := fun _ => ⟨0xFF#8, rfl, by decide, rfl⟩
  rawIsStart := by decide
  busyIsValid := by decide
  hdrIsFresh := fun h => absurd h (by decide)
  bodyHasUnit := fun _ op h => by
    have : op = .enc8Bit := by revert h; cases op <;> decide
    subst this
    decide
  finAtEnd := fun h => absurd h (by decide)
  outOnPort := ⟨[], rfl⟩
  scheduleArchitectural := fun _ h => absurd h (by simp [midRun, session, State.reset])

/-- For the two statements over every state that meets the invariant: its next step. The engine reads the pixel of unit 4, or fails, and goes on either way. -/
theorem witness_midRun_steps : ∃ t, step midRun = .next t := ⟨_, rfl⟩

/-- An error state, left by a START with RGB565 at 270° (E3). -/
def inError : State :=
  { session .error 0x00010023#32 0x00010001#32 with err := 1#2, cause := 3#4 }

theorem witness_ResetEventRestoresEveryPiece :
    ({ midRun with schedule := [.reset] } : State).nextMove = .reset := rfl

theorem witness_WriteCtrlActsOnBitZeroOnly :
    (0xFFFFFFFE#32).getLsbD 0 = false ∧ (0xFFFFFFFF#32).getLsbD 0 = true ∧
    midRun.phase.busy = true ∧
    State.reset.phase.busy = false ∧ validate (latchOf State.reset.cfg State.reset.dim) = 0#4 := by
  decide

/-- The neighbours of the mapped offsets, and the last offset. -/
theorem witness_unmapped_offsets :
    ∀ addr ∈ [0x01#8, 0x03#8, 0x05#8, 0x0F#8, 0x11#8, 0x14#8, 0xFF#8],
      addr ∉ [0x00#8, 0x04#8, 0x08#8, 0x0C#8, 0x10#8] := by decide

/-- A BUSY state that meets the invariant; and the two reads after an error have a next state. -/
theorem witness_StatusReadsAnswerTheReport :
    midRun.Inv ∧ midRun.phase.busy = true ∧ midRun.err ≠ 2#2 ∧
    (∃ u, exec .rdStatus (inError.raise (.invalidConfiguration 3#4)) = .next u) ∧
    (∃ u, exec .rdErrxy (inError.raise (.sourceUnavailable 3#16 2#16)) = .next u) :=
  ⟨witness_midRun_meets_the_invariant, by decide, by decide, ⟨_, rfl⟩, ⟨_, rfl⟩⟩

theorem witness_HostDecodeIsTotal :
    ((wrWord 0x01#8 1#32).extractLsb' 32 8).extractLsb' 0 2 ≠ 0#2 ∧
    (wrWord 0x14#8 1#32).extractLsb' 32 8 ∉ [0x00#8, 0x04#8, 0x08#8, 0x0C#8, 0x10#8] ∧
    (wrWord 0x00#8 1#32).extractLsb' 32 8 = 0x00#8 ∧ (rdWord 0x04#8).extractLsb' 32 8 = 0x04#8 ∧
    (wrWord 0x08#8 1#32).extractLsb' 32 8 = 0x08#8 ∧ (rdWord 0x0C#8).extractLsb' 32 8 = 0x0C#8 ∧
    (wrWord 0x10#8 1#32).extractLsb' 32 8 = 0x10#8 := by decide

/-- Each phase; a valid and an invalid configuration; the state of the last clause. -/
theorem witness_StartLatchesValidatesAndBegins :
    (1#32).getLsbD 0 = true ∧ midRun.phase = .body ∧ State.reset.phase = .idle ∧
    inError.phase = .error ∧
    validate (latchOf 0x0001004B#32 0x0014000A#32) = 0#4 ∧
    validate (latchOf 0x00010023#32 0x00010001#32) ≠ 0#4 ∧
    (session .idle 0x0001004B#32 0x0014000A#32).phase = .idle ∧
    (session .idle 0x0001004B#32 0x0014000A#32).cfg = 0x0001004B#32 ∧
    (session .idle 0x0001004B#32 0x0014000A#32).dim = 0x0014000A#32 := by decide

/-- Each cause at its vector (E1 to E5), and the last two clauses (E7, E8). -/
theorem witness_ValidationReportsTheFirstCause :
    validate (latchOf 0x00010035#32 0#32) = 1#4 ∧ validate (latchOf 0x00010031#32 0#32) = 2#4 ∧
    validate (latchOf 0x00010023#32 0#32) = 3#4 ∧ validate (latchOf 0#32 0x00080001#32) = 4#4 ∧
    validate (latchOf 0x00030000#32 0x000A0001#32) = 5#4 ∧
    (latchOf 0x00000001#32 0#32).fmt ≠ 0#3 ∧
    (latchOf 0x00070010#32 5#32).fmt = 0#3 ∧ (latchOf 0x00070010#32 5#32).orient = 1#2 ∧
    (latchOf 0x00070010#32 5#32).h = 0#16 ∧ (latchOf 0x00070010#32 5#32).rows ≠ 0#16 := by decide

theorem witness_NoByteBeforeValidation :
    inError.phase.busy = false ∧ validate (latchOf inError.cfg inError.dim) ≠ 0#4 := by decide

/-- Every format with a tag and both header widths. -/
theorem witness_TagAndSizeHeader :
    sessionOp (latchOf 0x00010000#32 0x0014000A#32) = some .enc1Bit ∧
    sessionOp (latchOf 0x00010009#32 0x0014000A#32) = some .enc4Bit ∧
    sessionOp (latchOf 0x00010022#32 0x0014000A#32) = some .enc8BitCol ∧
    sessionOp (latchOf 0x0001000B#32 0x0014000A#32) = some .encRgb565 ∧
    sessionOp (latchOf 0x0001000C#32 0x0014000A#32) = some .encArgb4444 ∧
    (latchOf 0x00010000#32 0x0014000A#32).hdrw = 0#1 ∧
    (latchOf 0x00010009#32 0x0014000A#32).hdrw = 1#1 := by decide

theorem witness_HeaderStepAppendsTagThenSize :
    sessionOp (session .hdr 0x0001004B#32 0x00010002#32).L = some .encRgb565 := by decide

/-- A 2×1 RGB565 session at its last unit, its one pixel answered; RLE as the CFG word says. -/
def lastUnit (cfg : Word) : State :=
  { session .body cfg 0x00010002#32 with
      k := 1#32, pixels := [pixel 1#16 0#16 255#8 255#8 255#8 255#8] }

theorem witness_UnitStepPushesTheUnit :
    sessionOp (lastUnit 0x0001000B#32).L = some .encRgb565 ∧
    (lastUnit 0x0001000B#32).k.toNat < unitCount .encRgb565 (lastUnit 0x0001000B#32).L ∧
    (lastUnit 0x0001000B#32).readAll [(1#16, 0#16)] =
      .colors [⟨255#8, 255#8, 255#8, 255#8⟩]
        { lastUnit 0x0001000B#32 with reads := [(1#16, 0#16)], pixels := [] } ∧
    unitCoords .encRgb565 0#2 (lastUnit 0x0001000B#32).L 1 = [(1#16, 0#16)] ∧
    (lastUnit 0x0001000B#32).L.rle = 0#1 ∧ (lastUnit 0x0001004B#32).L.rle = 1#1 ∧
    (lastUnit 0x0001004B#32).readAll [(1#16, 0#16)] =
      .colors [⟨255#8, 255#8, 255#8, 255#8⟩]
        { lastUnit 0x0001004B#32 with reads := [(1#16, 0#16)], pixels := [] } := by decide

/-- A 1×2 1BIT session at 0° whose second row fails. -/
def secondRowFails : State :=
  { session .body 0x00010000#32 0x00020001#32 with
      pixels := [pixel 0#16 0#16 0#8 0#8 0#8 0#8, ⟨0#16, 1#16, .fail⟩] }

theorem witness_FirstFailedReadEndsTheUnit :
    sessionOp secondRowFails.L = some .enc1Bit ∧
    secondRowFails.k.toNat < unitCount .enc1Bit secondRowFails.L ∧
    unitCoords .enc1Bit secondRowFails.L.orient secondRowFails.L secondRowFails.k.toNat =
      [(0#16, 0#16)] ++ (0#16, 1#16) :: [] ∧
    secondRowFails.readAll [(0#16, 0#16)] =
      .colors [⟨0#8, 0#8, 0#8, 0#8⟩] (secondRowFails.sendRead 0#16 0#16) ∧
    (secondRowFails.sendRead 0#16 0#16).sourceAnswer 0#16 1#16 = .fail := by decide

theorem witness_FinStepFlushesOnce :
    (session .fin 0x0001000B#32 0#32).L.rle = 0#1 ∧
    (session .fin 0x0001004B#32 0#32).L.rle = 1#1 ∧
    (session .fin 0x0001004B#32 0#32).rmode = .literal ∧
    ({ session .fin 0x0001004B#32 0#32 with rmode := .run, prev := some 7#8 } : State).rmode = .run := by
  decide

theorem witness_EngineStepsStopOutsideASession :
    sessionOp inError.L = none ∧
    sessionOp (session .body 0x0001000B#32 0x00010002#32).L = some .encRgb565 ∧
    unitCount .encRgb565 (session .body 0x0001000B#32 0x00010002#32).L ≤
      ({ session .body 0x0001000B#32 0x00010002#32 with k := 2#32 } : State).k.toNat := by decide

theorem witness_EngineStepFrame :
    (∃ t, exec .stepHdr (session .hdr 0x0001004B#32 0x00010002#32) = .next t) ∧
    (∃ t, exec .stepUnit (lastUnit 0x0001004B#32) = .next t) ∧
    (∃ t, exec .stepFin (session .fin 0x0001004B#32 0x00010002#32) = .next t) :=
  ⟨⟨_, rfl⟩, ⟨_, rfl⟩, ⟨_, rfl⟩⟩

theorem witness_RawPushAndFinish : (ctx 0#1 1#16).rle = 0#1 := rfl

/-- Each branch of R124, the counted one at its last value and the cap. -/
theorem witness_RlePushFollowsTheStateMachine :
    (ctx 1#1 1#16).rle = 1#1 ∧
    (let s : State := { State.reset with prev := some 5#8 }
     s.rmode = .literal ∧ s.prev = some 5#8 ∧ s.prev ≠ some 6#8) ∧
    (let s : State := { State.reset with rmode := .run, prev := some 5#8, count := 253#8 }
     s.rmode = .run ∧ s.prev = some 5#8 ∧ s.count.toNat < 254 ∧ 6#8 ≠ 5#8) ∧
    (let s : State := { State.reset with rmode := .run, prev := some 5#8, count := 254#8 }
     s.rmode = .run ∧ s.prev = some 5#8 ∧ s.count.toNat = 254) := by decide

theorem witness_RleFinishClosesTheRun :
    (ctx 1#1 1#16).rle = 1#1 ∧ midRun.rmode = .run ∧ State.reset.rmode = .literal ∧
    (∃ t, exec .finishRle midRun = .next t) := ⟨rfl, rfl, rfl, ⟨_, rfl⟩⟩

/-- B2: two pushes and a finish. -/
theorem witness_ProducerAloneEncodesItsStream :
    let s : State :=
      { session .idle 0x0001004B#32 0#32 with
          schedule := [.producer 0x27F#10, .producer 0x27F#10, .producer 0x300#10] }
    s.rle = rleStart ∧
    s.schedule =
      [0x7F#8, 0x7F#8].map (fun b => Move.producer (pbusWord 2#2 b)) ++
        [.producer (pbusWord 3#2 0#8)] ∧
    s.L.rle = 1#1 ∧ (session .idle 0x0001000B#32 0#32).L.rle = 0#1 := by decide

/-- The shortest run, and the lengths where a segment ends and the next begins. -/
theorem witness_RunsAreWrittenInSegments :
    rleStart.rmode = .literal ∧ rleStart.prev ≠ some 0#8 ∧
    (∀ m ∈ [2, 256, 257, 258, 259, 514, 515], 2 ≤ m) ∧ 1#8 ≠ 0#8 := by decide

/-- For NoRepeatsNoChange, and for the pairs of EncodedLengthIsBounded. -/
theorem witness_NoRepeatsNoChange : [1#8, 2#8, 1#8].IsChain (· ≠ ·) := by decide

theorem witness_OrientationMirrorsBothAxes :
    let L := latchOf 0x00010012#32 0x00020003#32
    2 < L.w.toNat ∧ 1 < L.h.toNat := by decide

theorem witness_EveryPixelIsReadOnce :
    let L := latchOf 0x00010012#32 0x00020003#32
    (2#16).toNat < L.w.toNat ∧ (1#16).toNat < L.h.toNat := by decide

theorem witness_OneBitUnitIsItsBand :
    let s : State := secondRowFails
    let t : State := { s with pixels := [pixel 0#16 0#16 0#8 0#8 0#8 0#8, pixel 0#16 1#16 9#8 0#8 0#8 0#8] }
    t.k.toNat < t.L.w.toNat * ((t.L.h.toNat + 7) / 8) ∧
    t.readAll [(0#16, 0#16), (0#16, 1#16)] =
      .colors [⟨0#8, 0#8, 0#8, 0#8⟩, ⟨9#8, 0#8, 0#8, 0#8⟩]
        { t with reads := [(0#16, 0#16), (0#16, 1#16)], pixels := [] } ∧
    1 < 8 ∧ 0 + 1 < t.L.h.toNat ∧ t.L.h.toNat ≤ 0 + 2 ∧
    s.k.toNat < s.L.w.toNat * ((s.L.h.toNat + 7) / 8) ∧
    s.readAll [(0#16, 0#16)] = .colors [⟨0#8, 0#8, 0#8, 0#8⟩] (s.sendRead 0#16 0#16) ∧
    (s.sendRead 0#16 0#16).sourceAnswer 0#16 1#16 = .fail := by decide

/-- A 1×3 image: the first pair is whole, the second has no bottom; a top and a bottom that fail. -/
theorem witness_FourBitUnitIsItsPair :
    let s : State :=
      { session .body 0x00010001#32 0x00030001#32 with
          pixels := [pixel 0#16 0#16 1#8 1#8 1#8 1#8, pixel 0#16 1#16 2#8 2#8 2#8 2#8] }
    let u : State :=
      { session .body 0x00010001#32 0x00030001#32 with
          k := 1#32, pixels := [pixel 0#16 2#16 3#8 3#8 3#8 3#8] }
    s.k.toNat < s.L.w.toNat * ((s.L.h.toNat + 1) / 2) ∧
    s.sourceAnswer 0#16 0#16 = .ok ⟨1#8, 1#8, 1#8, 1#8⟩ ∧
    (s.sendRead 0#16 0#16).sourceAnswer 0#16 1#16 = .ok ⟨2#8, 2#8, 2#8, 2#8⟩ ∧
    0 + 1 < s.L.h.toNat ∧
    u.k.toNat < u.L.w.toNat * ((u.L.h.toNat + 1) / 2) ∧
    u.sourceAnswer 0#16 2#16 = .ok ⟨3#8, 3#8, 3#8, 3#8⟩ ∧ u.L.h.toNat ≤ 2 + 1 ∧
    ({ s with pixels := [⟨0#16, 0#16, .fail⟩] } : State).sourceAnswer 0#16 0#16 = .fail ∧
    secondRowFails.sourceAnswer 0#16 0#16 = .ok ⟨0#8, 0#8, 0#8, 0#8⟩ ∧
    (secondRowFails.sendRead 0#16 0#16).sourceAnswer 0#16 1#16 = .fail := by decide

/-- Unit 1 of a 3×2 image: row-major (1, 0), column-major (0, 1). -/
theorem witness_EightBitUnitIsOnePixel :
    let s : State :=
      { session .body 0x00010002#32 0x00020003#32 with
          k := 1#32, pixels := [pixel 1#16 0#16 7#8 0#8 0#8 0#8, pixel 0#16 1#16 7#8 0#8 0#8 0#8] }
    s.k.toNat < s.L.w.toNat * s.L.h.toNat ∧
    s.sourceAnswer 1#16 0#16 = .ok ⟨7#8, 0#8, 0#8, 0#8⟩ ∧
    s.sourceAnswer 0#16 1#16 = .ok ⟨7#8, 0#8, 0#8, 0#8⟩ ∧
    ({ s with pixels := [⟨1#16, 0#16, .fail⟩] } : State).sourceAnswer 1#16 0#16 = .fail ∧
    ({ s with pixels := [⟨0#16, 1#16, .fail⟩] } : State).sourceAnswer 0#16 1#16 = .fail := by decide

theorem witness_SixteenBitUnitIsOnePixel :
    let s := lastUnit 0x0001000B#32
    s.k.toNat < s.L.w.toNat * s.L.h.toNat ∧
    s.sourceAnswer 1#16 0#16 = .ok ⟨255#8, 255#8, 255#8, 255#8⟩ ∧
    ({ s with pixels := [⟨1#16, 0#16, .fail⟩] } : State).sourceAnswer 1#16 0#16 = .fail := by decide

theorem witness_SessionOperationRaisesOnFailedRead :
    let f := fields 0#3 0#1 0#2 0#1 0#1 1#16
    Instr.enc1Bit f ∈
      [.enc1Bit f, .enc4Bit f, .enc8Bit f, .enc8BitCol f, .encRgb565 f, .encArgb4444 f] ∧
    operationOf (.enc1Bit f) = some .enc1Bit ∧
    unitCoords .enc1Bit f.orient secondRowFails.L secondRowFails.k.toNat =
      [(0#16, 0#16)] ++ (0#16, 1#16) :: [] ∧
    secondRowFails.k.toNat < unitCount .enc1Bit secondRowFails.L ∧
    secondRowFails.readAll [(0#16, 0#16)] =
      .colors [⟨0#8, 0#8, 0#8, 0#8⟩] (secondRowFails.sendRead 0#16 0#16) ∧
    (secondRowFails.sendRead 0#16 0#16).sourceAnswer 0#16 1#16 = .fail ∧
    unitCount .enc1Bit secondRowFails.L ≤ ({ secondRowFails with k := 1#32 } : State).k.toNat := by
  decide

/-- A 1×11 image: a last band of three rows, and a last row without a bottom. -/
theorem witness_HalfTurnPartialUnits :
    let L := latchOf 0x00010010#32 0x000B0001#32
    0 < L.w.toNat ∧ 0 < L.h.toNat ∧ 3 = L.h.toNat % 8 ∧ L.h.toNat % 2 = 1 := by decide

/-- Every phase with an empty schedule. -/
theorem witness_EngineStepsByPhase :
    ∀ p ∈ [Phase.idle, .hdr, .body, .fin, .done, .error],
      (session p 0x0001004B#32 0#32).schedule = [] ∧ (session p 0x0001004B#32 0#32).phase = p := by
  decide

theorem witness_StepRunsTheDecodedInstruction :
    let s : State := { State.reset with schedule := [.host (wrWord 0x08#8 1#32)] }
    s.nextMove ≠ .reset ∧ decode s.selectCtx (s.fetchBytes s.nextMove) = .ok (.start 1#32) := by
  decide

/-- A START of the schedule: a step with a next state, for every statement about a step. -/
theorem witness_statements_about_a_step :
    let s : State := { State.reset with schedule := [.host (wrWord 0x08#8 1#32)] }
    s.nextMove ≠ .reset ∧ ∃ t, step s = .next t ∧ t.phase = .hdr := ⟨by decide, _, rfl, rfl⟩

theorem witness_RunningSessionReadsOnlyTheLatchedCopy :
    (∃ t, exec .stepUnit (lastUnit 0x0001004B#32) = .next t) ∧
    exec .stepUnit inError = .fault .noSessionOperation := ⟨⟨_, rfl⟩, rfl⟩

/-- A read of STATUS in phase ERROR. -/
theorem witness_ErrorStaysUntilStartOrReset :
    let s : State := { inError with schedule := [.host (rdWord 0x0C#8)] }
    s.phase = .error ∧ s.nextMove.architectural = true ∧ s.nextMove ≠ .reset ∧
    (∀ data, decode s.selectCtx (s.fetchBytes s.nextMove) ≠ .ok (.start data)) ∧
    ∃ t, step s = .next t := by
  refine ⟨rfl, rfl, by decide, fun data h => ?_, _, rfl⟩
  have hd : decode ({ inError with schedule := [.host (rdWord 0x0C#8)] } : State).selectCtx
      (hbusBytes (rdWord 0x0C#8)) = .ok .rdStatus := by decide
  exact absurd (hd.symm.trans h) (by simp)

/-- P1 from its header on, RLE on: both pixels answered, and the HOST reads STATUS, writes CFG and
writes START before, among and after the engine steps. -/
theorem witness_SessionWritesHeaderThenBody :
    let s : State :=
      { session .hdr 0x0001004B#32 0x00010002#32 with
          pixels := [pixel 0#16 0#16 255#8 255#8 255#8 255#8, pixel 1#16 0#16 255#8 255#8 255#8 255#8],
          schedule := [.host (rdWord 0x0C#8), .engine, .host (wrWord 0x00#8 0#32),
                       .host (wrWord 0x08#8 1#32)] }
    s.phase = .hdr ∧ s.out = [] ∧ s.k = 0#32 ∧ s.rle = rleStart ∧
    (∀ m ∈ s.schedule, m.isHost = true ∨ m = .engine) ∧
    sessionOp s.L = some .encRgb565 ∧
    (bodyFrom .encRgb565 (unitCount .encRgb565 s.L) s).map Prod.fst =
      some [0xFF#8, 0xFF#8, 0xFF#8, 0xFF#8] := by decide

/-- H7: RGB565 0×5; and 5×0. -/
theorem witness_EmptyImageIsItsHeader :
    let s := session .hdr 0x0001004B#32 0x00050000#32
    s.phase = .hdr ∧ s.schedule = [] ∧ s.out = [] ∧ s.rle = rleStart ∧
    sessionOp s.L = some .encRgb565 ∧ s.L.w = 0#16 ∧
    (session .hdr 0x0001004B#32 0x00000005#32).L.h = 0#16 := by decide

theorem witness_EverySessionEnds :
    midRun.Inv ∧ midRun.phase.busy = true ∧ midRun.schedule = [] ∧
    sessionOp midRun.L = some .enc8Bit :=
  ⟨witness_midRun_meets_the_invariant, by decide, by decide, by decide⟩

theorem witness_DecodeInvertsEncode :
    (Instr.invalidRowsDiv (fields 0#3 0#1 1#2 1#1 1#1 0xFFFF#16)).wellFormed (ctx 0#1 1#16) = true ∧
    (Instr.wrNone 0xFF#8 0xFFFFFFFF#32).wellFormed (ctx 0#1 1#16) = true ∧
    (Instr.pushRle 0xFF#8).wellFormed (ctx 1#1 1#16) = true := by decide

/-- A PUSH, and a FINISH and a read whose ignored DATA is not 0. -/
theorem witness_DecodedInstructionIsWellFormed :
    decode (ctx 1#1 1#16) [0xFF#8, 0x02#8] = .ok (.pushRle 0xFF#8) ∧
    decode (ctx 1#1 1#16) [0xFF#8, 0x03#8] = .ok .finishRle ∧
    decode (ctx 1#1 1#16) [1#8, 2#8, 3#8, 4#8, 0x04#8, 0#8] = .ok .rdDim := by decide

/-- The least value of each reserved range, and the longest and shortest lengths of no format. -/
theorem witness_ReservedWordsAreRefused :
    8 ≤ (8#8 : Byte).toNat ∧ 4 ≤ (4#8 : Byte).toNat ∧ (1#8 : Byte) ≠ 0#8 ∧ 2 ≤ (2#8 : Byte).toNat ∧
    ([] : List Byte).length ∉ [1, 2, 4, 6] ∧ (List.replicate 7 (0#8 : Byte)).length ∉ [1, 2, 4, 6] := by
  decide

end Sys2Proof.Tests
end

section
/-! PROOFS. Family 10_state: what one transition of HOST, ENGINE or reset can do, and the invariant that
every such transition keeps. -/

namespace Sys2Proof.Machine

/-! ### What a host transaction and the ENGINE's turn can do -/

/-- What a host transaction can do: nothing, answer a read, store CFG or DIM, or START. -/
theorem exec_decodeHbus_cases (we : BitVec 1) (addr : Byte) (data : Word) (s : State) :
    ∃ t, exec (decodeHbus we addr data) s = .next t ∧
      (t = s ∨ (∃ v, t = s.respond v) ∨
        (decodeHbus we addr data = .wrCfg data ∧ t = { s with cfg := data &&& cfgWritable }) ∨
        (decodeHbus we addr data = .wrDim data ∧ t = { s with dim := data }) ∨
        (decodeHbus we addr data = .start data ∧ t = s.start)) := by
  unfold decodeHbus
  split_ifs with _ _ _ _ hbit
  · exact ⟨_, rfl, .inr (.inr (.inl ⟨rfl, rfl⟩))⟩
  · exact ⟨_, rfl, .inr (.inr (.inr (.inl ⟨rfl, rfl⟩)))⟩
  · exact ⟨_, rfl, .inr (.inr (.inr (.inr ⟨rfl, rfl⟩)))⟩
  · exact ⟨s, congrArg _ (if_neg hbit), .inl rfl⟩
  · exact ⟨s, rfl, .inl rfl⟩
  · exact ⟨s, rfl, .inl rfl⟩
  · exact ⟨s, rfl, .inl rfl⟩
  -- the six reads
  all_goals exact ⟨_, rfl, .inr (.inl ⟨_, rfl⟩)⟩

/-- What the ENGINE's turn can do: the step of its phase, or nothing (R28, R100). -/
theorem step_engine_cases (s : State) (h : s.nextMove = .engine) :
    (s.phase = .hdr ∧ step s = execStepHdr s.popMove) ∨
    (s.phase = .body ∧ step s = execStepUnit s.popMove) ∨
    (s.phase = .fin ∧ step s = execStepFin s.popMove) ∨
    (s.phase.busy = false ∧ step s = .next s.popMove) := by
  have hr : s.nextMove ≠ .reset := by simp [h]
  have hd := decode_engine s
  rw [← h] at hd
  cases hp : s.phase <;> rw [hp] at hd
  case hdr => exact .inl ⟨rfl, step_of_decode s _ hr hd⟩
  case body => exact .inr (.inl ⟨rfl, step_of_decode s _ hr hd⟩)
  case fin => exact .inr (.inr (.inl ⟨rfl, step_of_decode s _ hr hd⟩))
  all_goals exact .inr (.inr (.inr ⟨rfl, step_of_reject s _ hr hd⟩))

/-- STEP.HDR has a next state exactly when L selects an operation. -/
theorem execStepHdr_eq_next (s t : State) :
    execStepHdr s = .next t ↔ ∃ op, sessionOp s.L = some op ∧ s.headerStep op = t := by
  unfold execStepHdr
  cases sessionOp s.L <;> simp

/-- STEP.UNIT has a next state exactly when L selects an operation and a unit is left. -/
theorem execStepUnit_eq_next (s t : State) :
    execStepUnit s = .next t ↔
      ∃ op, sessionOp s.L = some op ∧ s.k.toNat < unitCount op s.L ∧ s.unitStep op = t := by
  unfold execStepUnit
  cases sessionOp s.L <;> simp [ite_eq_iff]

/-- What STEP.UNIT can do: its reads are all answered and its bytes pushed, or a read failed. -/
theorem unitStep_cases (s : State) (op : SessionOp) :
    ∃ (rs : List Coord) (px : List PixelEntry),
      (∃ cs, s.unitStep op =
        (({ s with reads := rs, pixels := px } : State).pushAll
          (packUnit op s.L.mono cs)).advanceUnit op) ∨
      (∃ x y, s.unitStep op =
        ({ s with reads := rs, pixels := px } : State).raise (.sourceUnavailable x y)) := by
  unfold State.unitStep
  rcases readAll_cases s (unitCoords op s.L.orient s.L s.k.toNat) with
    ⟨cs, px, _, h⟩ | ⟨_, _, x, y, px, _, h⟩ <;> rw [h]
  · exact ⟨_, px, .inl ⟨cs, rfl⟩⟩
  · exact ⟨_, px, .inr ⟨x, y, rfl⟩⟩

/-- STEP.HDR moves the phase on and appends tag and size, in either order. -/
theorem headerStep_eq (s : State) (op : SessionOp) :
    s.headerStep op =
      ({ s with phase := if unitCount op s.L = 0 then .fin else .body } : State).sinkAppendAll
        (tagBytes op ++ sizeBytes op s.L) := by
  rw [State.headerStep, sinkAppendAll_eq, sinkAppendAll_eq]

/-! ### What PUSH of a list and FINISH leave unchanged -/

@[simp] theorem pushAll_L (s : State) (bs : List Byte) : (s.pushAll bs).L = s.L := by
  obtain ⟨w, r, h⟩ := pushAll_cases s bs
  rw [h]

@[simp] theorem pushAll_phase (s : State) (bs : List Byte) : (s.pushAll bs).phase = s.phase := by
  obtain ⟨w, r, h⟩ := pushAll_cases s bs
  rw [h]

@[simp] theorem finish_L (s : State) : s.finish.L = s.L := by
  rcases finish_cases s with ⟨_, h⟩ | ⟨_, h⟩ <;> simp [h, sinkAppendAll_eq]

@[simp] theorem finish_phase (s : State) : s.finish.phase = s.phase := by
  rcases finish_cases s with ⟨_, h⟩ | ⟨_, h⟩ <;> simp [h, sinkAppendAll_eq]

/-! ### The producer's relation to `out` (R35) -/

/-- The relation of R35 between the producer's state and what it has written. -/
def RleState.RunHasByte (r : RleState) (out : List Byte) : Prop :=
  r.rmode = .run → ∃ p, r.prev = some p ∧ r.count.toNat ≤ 254 ∧ out.getLast? = some p

theorem rleStart_runHasByte (out : List Byte) : rleStart.RunHasByte out := nofun

/-- One PUSH in RLE mode keeps R35's relation: a run is opened by writing its byte, and while it is
open nothing is written and its count stops short of 255. -/
theorem rlePush_runHasByte (r : RleState) (b : Byte) (out : List Byte) (h : r.RunHasByte out) :
    (rlePush r b).1.RunHasByte (out ++ (rlePush r b).2) := by
  rcases rlePush_cases r b with ⟨_, hp, e⟩ | ⟨hm, _, e⟩ | ⟨_, _, _, e⟩ | ⟨hm, _, hc, e⟩ | ⟨_, _, e⟩ <;>
    rw [e]
  · exact fun _ => ⟨b, hp, Nat.zero_le _, List.getLast?_concat⟩
  · exact fun hrun => absurd (hm.symm.trans hrun) nofun
  · exact nofun
  · intro _
    obtain ⟨p, hp, hle, hlast⟩ := h hm
    exact ⟨p, hp, by bv_omega, by simpa using hlast⟩
  · exact nofun

theorem rlePushAll_runHasByte (r : RleState) (bs out : List Byte) (h : r.RunHasByte out) :
    (rlePushAll r bs).1.RunHasByte (out ++ (rlePushAll r bs).2) := by
  induction bs generalizing r out with
  | nil => simpa [rlePushAll] using h
  | cons b bs ih =>
    simpa [rlePushAll] using ih _ _ (rlePush_runHasByte r b out h)

/-- CAUSE 6 to 15 are never produced (R101, R151). -/
theorem validate_le (L : Latched) : (validate L).toNat ≤ 5 := by
  unfold validate
  split_ifs <;> decide

/-! ### The invariant under each operation of the state -/

namespace State.Inv

variable {s : State}

theorem err_eq_zero (h : s.Inv) (hp : s.phase ≠ .error) : s.err = 0#2 := by
  by_contra he
  exact hp (h.errIffError.mp he)

theorem cause_eq_zero (h : s.Inv) (hp : s.phase ≠ .error) : s.cause = 0#4 := by
  by_contra hc
  have he := h.causeIffInvalid.mp hc
  rw [h.err_eq_zero hp] at he
  exact absurd he (by decide)

theorem nextMove_architectural (h : s.Inv) : s.nextMove.architectural = true := by
  have hs := h.scheduleArchitectural
  unfold nextMove
  split
  next => rfl
  next m ms hm => exact hs m (by simp [hm])

theorem popMove (h : s.Inv) : s.popMove.Inv :=
  { h with scheduleArchitectural := fun m hm => h.scheduleArchitectural m (List.mem_of_mem_tail hm) }

theorem respond (h : s.Inv) (v : Word) : (s.respond v).Inv := { h with }

theorem writeDim (h : s.Inv) (data : Word) : ({ s with dim := data } : State).Inv := { h with }

theorem writeCfg (h : s.Inv) (data : Word) :
    ({ s with cfg := data &&& cfgWritable } : State).Inv :=
  { h with cfgReserved := by simp [cfgWritable, BitVec.and_assoc] }

theorem readLog (h : s.Inv) (rs : List Coord) (px : List PixelEntry) :
    ({ s with reads := rs, pixels := px } : State).Inv := { h with }

/-- What START latches and clears, before it sets a phase (R150). -/
theorem beginIdle (h : s.Inv) : ({ s.begin with phase := .idle } : State).Inv :=
  { h with
    errIffError := by simp
    causeIffInvalid := by simp
    errInRange := by simp
    causeInRange := by simp
    errxyCleared := fun _ => rfl
    runHasByte := rleStart_runHasByte []
    rawIsStart := fun _ => rfl
    busyIsValid := nofun
    hdrIsFresh := nofun
    bodyHasUnit := nofun
    finAtEnd := nofun
    outOnPort := List.nil_suffix }

theorem start (h : s.Inv) : s.start.Inv := by
  rcases start_cases s with ⟨_, e⟩ | ⟨_, hv, e⟩ | ⟨_, hv, e⟩ <;> rw [e]
  · exact h
  · exact { h.beginIdle with
      errIffError := by simp
      busyIsValid := fun _ => hv
      hdrIsFresh := fun _ => ⟨rfl, rfl, rfl⟩
      bodyHasUnit := nofun
      finAtEnd := nofun }
  · exact { h.beginIdle with
      errIffError := by simp
      causeIffInvalid := by simpa using hv
      errInRange := by simp
      causeInRange := validate_le (latchOf s.cfg s.dim)
      errxyCleared := fun _ => rfl
      busyIsValid := nofun
      hdrIsFresh := nofun
      bodyHasUnit := nofun
      finAtEnd := nofun }

/-- A write of the sink and the producer after STEP.HDR that keeps R35. -/
theorem write (h : s.Inv) (hp : s.phase ≠ .hdr) (w : List Byte) (r : RleState)
    (hrun : r.RunHasByte (s.out ++ w)) (hraw : s.L.rle = 0#1 → r = rleStart) :
    ((s.sinkAppendAll w).setRle r).Inv := by
  rw [sinkAppendAll_eq]
  exact { h with
    runHasByte := hrun
    rawIsStart := hraw
    hdrIsFresh := fun hh => absurd hh hp
    outOnPort := h.outOnPort.elim fun pre e => ⟨pre, by simp [← e]⟩ }

/-- A write of the sink past the producer. -/
theorem append (h : s.Inv) (hp : s.phase ≠ .hdr) (w : List Byte)
    (hrun : s.rle.RunHasByte (s.out ++ w)) : (s.sinkAppendAll w).Inv := by
  have hw := h.write hp w s.rle hrun h.rawIsStart
  rw [sinkAppendAll_eq] at hw ⊢
  exact hw

theorem pushAll (h : s.Inv) (hp : s.phase ≠ .hdr) (bs : List Byte) : (s.pushAll bs).Inv := by
  by_cases hr : s.L.rle = 1#1
  · rw [pushAll_rle s bs hr]
    exact h.write hp _ _ (rlePushAll_runHasByte _ _ _ h.runHasByte)
      fun h0 => absurd (h0.symm.trans hr) (by decide)
  · have hs : s.rle = rleStart := h.rawIsStart (by bv_omega)
    rw [pushAll_raw s bs hr]
    exact h.append hp bs (hs ▸ rleStart_runHasByte _)

theorem finish (h : s.Inv) (hp : s.phase ≠ .hdr) : s.finish.Inv := by
  rcases finish_cases s with ⟨_, e⟩ | ⟨_, e⟩ <;> rw [e]
  · exact h.write hp _ rleStart (rleStart_runHasByte _) fun _ => rfl
  · exact h

/-- The cursor and the phase of a session move on to BODY, FIN or DONE: the invariant asks only that
the cursor fits the phase. -/
theorem moveOn (h : s.Inv) {op : SessionOp} (hop : sessionOp s.L = some op) (hs : s.phase ≠ .error)
    (p : Phase) (k : BitVec 32)
    (hpk : (p = .body ∧ k.toNat < unitCount op s.L) ∨ (p = .fin ∧ k.toNat = unitCount op s.L) ∨
      p = .done) :
    ({ s with phase := p, k := k } : State).Inv := by
  have hv : validate s.L = 0#4 := (sessionOp_isSome s.L).mp (by simp [hop])
  have he := h.err_eq_zero hs
  refine { h with
    errIffError := ?_
    busyIsValid := fun _ => hv
    hdrIsFresh := ?_
    bodyHasUnit := ?_
    finAtEnd := ?_ }
  all_goals rcases hpk with hpk | hpk | hpk <;> simp [hpk, he, hop]

theorem sourceUnavailable (h : s.Inv) (hs : s.phase ≠ .error) (x y : Half) :
    (s.raise (.sourceUnavailable x y)).Inv :=
  { h with
    errIffError := by simp
    causeIffInvalid := by simp [h.cause_eq_zero hs]
    errInRange := by simp
    errxyCleared := by simp
    busyIsValid := nofun
    hdrIsFresh := nofun
    bodyHasUnit := nofun
    finAtEnd := nofun }

/-! ### The invariant under the ENGINE's three steps -/

/-- STEP.HDR: the phase moves on first, then tag and size are written by a fresh producer. -/
theorem headerStep (h : s.Inv) (hp : s.phase = .hdr) {op : SessionOp}
    (hop : sessionOp s.L = some op) : (s.headerStep op).Inv := by
  obtain ⟨_, hk, hrle⟩ := h.hdrIsFresh hp
  rw [headerStep_eq]
  refine (h.moveOn hop (by simp [hp]) _ s.k ?_).append ?_ _ ?_
  · by_cases h0 : unitCount op s.L = 0
    · exact .inr (.inl ⟨if_pos h0, by simp [hk, h0]⟩)
    · exact .inl ⟨if_neg h0, by simpa [hk] using Nat.pos_of_ne_zero h0⟩
  · show (if _ then _ else _) ≠ Phase.hdr
    split <;> simp
  · exact hrle ▸ rleStart_runHasByte _

theorem advanceUnit (h : s.Inv) (hp : s.phase = .body) {op : SessionOp}
    (hop : sessionOp s.L = some op) : (s.advanceUnit op).Inv := by
  have hk := h.bodyHasUnit hp op hop
  have hk1 := cursor_succ s.k op s.L hk
  refine h.moveOn hop (by simp [hp]) _ _ ?_
  by_cases hlast : (s.k + 1#32).toNat = unitCount op s.L
  · exact .inr (.inl ⟨if_pos hlast, hlast⟩)
  · exact .inl ⟨(if_neg hlast).trans hp, by omega⟩

theorem unitStep (h : s.Inv) (hp : s.phase = .body) {op : SessionOp}
    (hop : sessionOp s.L = some op) : (s.unitStep op).Inv := by
  obtain ⟨rs, px, ⟨cs, e⟩ | ⟨x, y, e⟩⟩ := unitStep_cases s op <;> rw [e]
  · exact ((h.readLog rs px).pushAll (by simp [hp]) _).advanceUnit (by simp [hp]) (by simpa using hop)
  · exact (h.readLog rs px).sourceUnavailable (by simp [hp]) x y

theorem finStep (h : s.Inv) (hp : s.phase = .fin) : ({ s.finish with phase := .done } : State).Inv := by
  have hv := h.busyIsValid (by simp [hp, Phase.busy])
  obtain ⟨op, hop⟩ := Option.isSome_iff_exists.mp ((sessionOp_isSome s.L).mpr hv)
  exact (h.finish (by simp [hp])).moveOn (by simpa using hop) (by simp [hp]) .done s.finish.k
    (.inr (.inr rfl))

end State.Inv

/-! ### The obligations -/

/-- Settles O1, each piece by evaluation. -/
theorem resetLeavesEveryPieceAtItsValue : Obligations.ResetLeavesEveryPieceAtItsValue :=
  ⟨rfl, rfl, rfl, rfl, rfl, rfl, rfl, rfl, rfl, rfl, rfl, rfl, rfl, rfl, rfl⟩

/-- Settles O49: each field of the invariant at the reset values. -/
theorem invariantHoldsAtReset : Obligations.InvariantHoldsAtReset where
  cfgReserved := by decide
  errIffError := by decide
  causeIffInvalid := by decide
  errInRange := by decide
  causeInRange := by decide
  errxyCleared := fun _ => rfl
  runHasByte := nofun
  rawIsStart := fun _ => rfl
  busyIsValid := nofun
  hdrIsFresh := nofun
  bodyHasUnit := nofun
  finAtEnd := nofun
  outOnPort := List.nil_suffix
  scheduleArchitectural := nofun

/-- The reset event leaves the reset values, the port's history and the moves still to come. -/
theorem State.Inv.resetEvent {s : State} (h : s.Inv) : s.resetEvent.Inv :=
  { invariantHoldsAtReset with
    outOnPort := List.nil_suffix
    scheduleArchitectural := h.scheduleArchitectural }

/-- Settles O50: the next move is the reset event, a host transaction or the ENGINE's turn, and each
effect it can have keeps the invariant. -/
theorem everyTransitionKeepsTheInvariant : Obligations.EveryTransitionKeepsTheInvariant := by
  intro s t h hs
  have hpop := h.popMove
  cases hm : s.nextMove with
  | reset =>
    obtain rfl : s.popMove.resetEvent = t := by simpa [step, hm] using hs
    exact hpop.resetEvent
  | host w =>
    rw [step_host s w hm] at hs
    obtain ⟨u, hu, hcases⟩ := exec_decodeHbus_cases (w.extractLsb' 40 1) (w.extractLsb' 32 8)
      (w.extractLsb' 0 32) s.popMove
    obtain rfl : u = t := by simpa [hu] using hs
    rcases hcases with rfl | ⟨v, rfl⟩ | ⟨_, rfl⟩ | ⟨_, rfl⟩ | ⟨_, rfl⟩
    · exact hpop
    · exact hpop.respond v
    · exact hpop.writeCfg _
    · exact hpop.writeDim _
    · exact hpop.start
  | engine =>
    rcases step_engine_cases s hm with ⟨hp, e⟩ | ⟨hp, e⟩ | ⟨hp, e⟩ | ⟨_, e⟩ <;> rw [e] at hs
    · obtain ⟨op, hop, rfl⟩ := (execStepHdr_eq_next _ t).mp hs
      exact hpop.headerStep hp hop
    · obtain ⟨op, hop, _, rfl⟩ := (execStepUnit_eq_next _ t).mp hs
      exact hpop.unitStep hp hop
    · cases hs
      exact hpop.finStep hp
    · cases hs
      exact hpop
  | producer w => exact absurd h.nextMove_architectural (by simp [hm, Move.architectural])
  | operation => exact absurd h.nextMove_architectural (by simp [hm, Move.architectural])

/-- Settles O43: STATE is the phase's code, and the ENGINE's turn is the step its phase selects. -/
theorem engineStepsByPhase : Obligations.EngineStepsByPhase := by
  intro s hnil
  obtain ⟨hhdr, hbody, hfin⟩ := step_of_busy_phase s hnil
  have hidle := step_of_idle_phase s hnil
  exact ⟨fun hp => ⟨congrArg stateCode hp, hidle (congrArg Phase.busy hp)⟩,
    fun hp => ⟨congrArg stateCode hp, hhdr hp⟩,
    fun hp => ⟨congrArg stateCode hp, hbody hp⟩,
    fun hp => ⟨congrArg stateCode hp, hfin hp⟩,
    fun hp => ⟨congrArg stateCode hp, hidle (congrArg Phase.busy hp)⟩,
    fun hp => ⟨congrArg stateCode hp, hidle (congrArg Phase.busy hp)⟩⟩

end Sys2Proof.Machine
end

section
/-! PROOFS. Family 20_memory: what one transition can write and read, what it leaves as it was, and
that the ENGINE's steps do not depend on CFG and DIM. -/

namespace Sys2Proof.Machine

/-! ### The coordinates a unit reads lie in the canvas (R62) -/

/-- The physical coordinate is one of the pixel source space of L (R60). -/
def Latched.InCanvas (L : Latched) (p : Coord) : Prop :=
  p.1.toNat < L.w.toNat ∧ p.2.toNat < L.h.toNat

/-- A unit below N(L) reads logical coordinates inside the canvas (R183). -/
theorem unitLogical_lt (op : SessionOp) (L : Latched) (k : Nat) (hk : k < unitCount op L) :
    ∀ p ∈ unitLogical op L k, p.1 < L.w.toNat ∧ p.2 < L.h.toNat := by
  -- an image without a column has no unit
  have hw : 0 < L.w.toNat := Nat.pos_of_ne_zero fun h0 => by cases op <;> simp [unitCount, h0] at hk
  have hx : k % L.w.toNat < L.w.toNat := Nat.mod_lt k hw
  cases op with
  | enc1Bit =>
    intro p hp
    obtain ⟨z, hz, rfl⟩ := List.mem_map.mp hp
    exact ⟨hx, of_decide_eq_true (List.mem_filter.mp hz).2⟩
  | enc4Bit =>
    have hy : 2 * (k / L.w.toNat) < L.h.toNat := by
      have := Nat.div_lt_of_lt_mul hk
      simp only [ceilDiv] at this
      omega
    by_cases hbot : 2 * (k / L.w.toNat) + 1 < L.h.toNat <;> simp [unitLogical, hbot, hx, hy]
  | enc8BitCol =>
    have hh : 0 < L.h.toNat := Nat.pos_of_ne_zero fun h0 => by simp [unitCount, h0] at hk
    simpa [unitLogical] using ⟨Nat.div_lt_of_lt_mul (Nat.mul_comm _ _ ▸ hk), Nat.mod_lt k hh⟩
  | enc8Bit | encRgb565 | encArgb4444 =>
    simpa [unitLogical, hx] using Nat.div_lt_of_lt_mul hk

/-- The orientation mapping keeps the canvas (R181). -/
theorem phys_lt (orient : BitVec 2) (L : Latched) (x y : Nat)
    (hx : x < L.w.toNat) (hy : y < L.h.toNat) :
    (phys orient L x y).1 < L.w.toNat ∧ (phys orient L x y).2 < L.h.toNat := by
  unfold phys
  split
  · constructor <;> dsimp only <;> omega
  · exact ⟨hx, hy⟩

/-- The 16 bits an axis of the port carry a coordinate of the canvas (R8). -/
theorem coordOf_inCanvas (L : Latched) (p : Nat × Nat) (hx : p.1 < L.w.toNat)
    (hy : p.2 < L.h.toNat) : L.InCanvas (coordOf p) := by
  simpa [Latched.InCanvas, coordOf] using
    And.intro ((Nat.mod_le _ _).trans_lt hx) ((Nat.mod_le _ _).trans_lt hy)

theorem unitCoords_inCanvas (op : SessionOp) (orient : BitVec 2) (L : Latched) (k : Nat)
    (hk : k < unitCount op L) : ∀ p ∈ unitCoords op orient L k, L.InCanvas p := by
  intro p hp
  obtain ⟨q, hq, rfl⟩ := List.mem_map.mp hp
  obtain ⟨hx, hy⟩ := unitLogical_lt op L k hk q hq
  obtain ⟨hx', hy'⟩ := phys_lt (readOrient op orient) L q.1 q.2 hx hy
  exact coordOf_inCanvas L _ hx' hy'

/-! ### Transitions that only write the sink, read pixels and move the session on -/

/-- t is s after some work of the ENGINE or a unit: bytes appended to the sink and its port, reads
issued inside the canvas, and the configuration and the schedule as they were. -/
structure State.Extends (s t : State) : Prop where
  cfg : t.cfg = s.cfg
  dim : t.dim = s.dim
  L : t.L = s.L
  schedule : t.schedule = s.schedule
  out : ∃ bytes, t.out = s.out ++ bytes ∧ t.port = s.port ++ bytes
  reads : ∃ coords, t.reads = s.reads ++ coords ∧ ∀ p ∈ coords, s.L.InCanvas p

namespace State.Extends

variable {s t u : State}

/-- A change of the other fields alone. -/
theorem of_same (hcfg : t.cfg = s.cfg) (hdim : t.dim = s.dim) (hL : t.L = s.L)
    (hsched : t.schedule = s.schedule) (hout : t.out = s.out) (hport : t.port = s.port)
    (hreads : t.reads = s.reads) : s.Extends t :=
  ⟨hcfg, hdim, hL, hsched, ⟨[], by simp [hout], by simp [hport]⟩, ⟨[], by simp [hreads], nofun⟩⟩

theorem refl (s : State) : s.Extends s := of_same rfl rfl rfl rfl rfl rfl rfl

theorem trans (hst : s.Extends t) (htu : t.Extends u) : s.Extends u := by
  obtain ⟨w₁, ho₁, hp₁⟩ := hst.out
  obtain ⟨w₂, ho₂, hp₂⟩ := htu.out
  obtain ⟨r₁, hr₁, hin₁⟩ := hst.reads
  obtain ⟨r₂, hr₂, hin₂⟩ := htu.reads
  rw [hst.L] at hin₂
  exact {
    cfg := htu.cfg.trans hst.cfg
    dim := htu.dim.trans hst.dim
    L := htu.L.trans hst.L
    schedule := htu.schedule.trans hst.schedule
    out := ⟨w₁ ++ w₂, by simp [ho₁, ho₂], by simp [hp₁, hp₂]⟩
    reads := ⟨r₁ ++ r₂, by simp [hr₁, hr₂], List.forall_mem_append.mpr ⟨hin₁, hin₂⟩⟩ }

end State.Extends

section

variable (s : State)

theorem raise_extends (e : SessionError) : s.Extends (s.raise e) := by
  cases e <;> exact .of_same rfl rfl rfl rfl rfl rfl rfl

theorem advanceUnit_extends (op : SessionOp) : s.Extends (s.advanceUnit op) :=
  .of_same rfl rfl rfl rfl rfl rfl rfl

theorem setRle_extends (r : RleState) : s.Extends (s.setRle r) :=
  .of_same rfl rfl rfl rfl rfl rfl rfl

theorem sinkAppendAll_extends (bs : List Byte) : s.Extends (s.sinkAppendAll bs) := by
  rw [sinkAppendAll_eq]
  exact ⟨rfl, rfl, rfl, rfl, ⟨bs, rfl, rfl⟩, ⟨[], by simp, nofun⟩⟩

theorem pushAll_extends (bs : List Byte) : s.Extends (s.pushAll bs) := by
  by_cases hr : s.L.rle = 1#1
  · rw [pushAll_rle s bs hr]
    exact (sinkAppendAll_extends s _).trans (setRle_extends _ _)
  · rw [pushAll_raw s bs hr]
    exact sinkAppendAll_extends s bs

theorem pushRle_extends (b : Byte) : s.Extends (s.pushRle b) :=
  (sinkAppendAll_extends s _).trans (setRle_extends _ _)

theorem finishRle_extends : s.Extends s.finishRle :=
  (sinkAppendAll_extends s _).trans (setRle_extends _ _)

theorem finish_extends : s.Extends s.finish := by
  rcases finish_cases s with ⟨_, h⟩ | ⟨_, h⟩ <;> rw [h]
  · exact finishRle_extends s
  · exact .refl s

theorem headerStep_extends (op : SessionOp) : s.Extends (s.headerStep op) :=
  (sinkAppendAll_extends s _).trans (.of_same rfl rfl rfl rfl rfl rfl rfl)

/-- Reads inside the canvas, answered all or up to a first failure. -/
theorem readAll_extends (cs : List Coord) (hcs : ∀ p ∈ cs, s.L.InCanvas p) :
    (∃ colors t, s.readAll cs = .colors colors t ∧ s.Extends t) ∨
    (∃ x y t, s.readAll cs = .unavailable x y t ∧ s.Extends t) := by
  rcases readAll_cases s cs with ⟨colors, px, _, h⟩ | ⟨before, after, x, y, px, rfl, h⟩
  · exact .inl ⟨colors, _, h, ⟨rfl, rfl, rfl, rfl, ⟨[], by simp, by simp⟩, ⟨cs, rfl, hcs⟩⟩⟩
  · refine .inr ⟨x, y, _, h, ⟨rfl, rfl, rfl, rfl, ⟨[], by simp, by simp⟩,
      ⟨before ++ [(x, y)], by simp, fun p hp => hcs p ?_⟩⟩⟩
    simp only [List.mem_append, List.mem_cons, List.not_mem_nil, or_false] at hp ⊢
    tauto

theorem unitStep_extends (op : SessionOp) (hk : s.k.toNat < unitCount op s.L) :
    s.Extends (s.unitStep op) := by
  unfold State.unitStep
  rcases readAll_extends s _ (unitCoords_inCanvas op s.L.orient s.L _ hk) with
    ⟨cs, t, h, he⟩ | ⟨x, y, t, h, he⟩ <;> rw [h]
  · exact he.trans ((pushAll_extends t _).trans (advanceUnit_extends _ op))
  · exact he.trans (raise_extends t _)

theorem unitFunction_extends (op : SessionOp) (f : CfgFields) (hk : s.k.toNat < unitCount op s.L) :
    s.Extends (s.unitFunction op f) := by
  unfold State.unitFunction
  rcases readAll_extends s _ (unitCoords_inCanvas op f.orient s.L _ hk) with
    ⟨cs, t, h, he⟩ | ⟨x, y, t, h, he⟩ <;> rw [h]
  · exact he.trans (.of_same rfl rfl rfl rfl rfl rfl rfl)
  · exact he.trans (raise_extends t _)

end

/-! ### What each move can do -/

/-- What a PBUS word can do: it extends the sink, in every mode. -/
theorem exec_decodePbus_extends (c : SelectCtx) (op : BitVec 2) (data : Byte) (s : State) :
    ∃ t, exec (decodePbus c op data) s = .next t ∧ s.Extends t := by
  unfold decodePbus
  split_ifs
  · exact ⟨s, rfl, .refl s⟩
  · exact ⟨_, rfl, sinkAppendAll_extends s [data]⟩
  · exact ⟨_, rfl, pushRle_extends s data⟩
  · exact ⟨_, rfl, sinkAppendAll_extends s [data]⟩
  · exact ⟨_, rfl, finishRle_extends s⟩
  · exact ⟨s, rfl, .refl s⟩

/-- What a CFGW word can do: an illegal one raises its cause, a session operation runs on the
cursor's unit. -/
theorem exec_decodeCfgw_cases (c : SelectCtx) (f : CfgFields) (s : State) :
    (∃ cause, exec (decodeCfgw c f) s = .next (s.raise (.invalidConfiguration cause))) ∨
    (∃ op, exec (decodeCfgw c f) s = runOperation op f s) := by
  unfold decodeCfgw
  split_ifs
  -- FMT 5, 6 and 7, ORIENT 3, and 1BIT and 4BIT at 270°
  iterate 5 · exact .inl ⟨_, rfl⟩
  -- 8BIT at 270°
  · exact .inr ⟨_, rfl⟩
  -- RGB565 and ARGB4444 at 270°, and 1BIT with ROWS = 0
  iterate 3 · exact .inl ⟨_, rfl⟩
  -- 1BIT with ROWS dividing HEIGHT, or not
  · exact .inr ⟨_, rfl⟩
  · exact .inl ⟨_, rfl⟩
  -- the other formats upright
  iterate 4 · exact .inr ⟨_, rfl⟩

/-- A session operation run alone has a next state exactly when the cursor names a unit. -/
theorem runOperation_eq_next (op : SessionOp) (f : CfgFields) (s t : State) :
    runOperation op f s = .next t ↔
      s.k.toNat < unitCount op s.L ∧ s.unitFunction op f = t := by
  simp [runOperation, ite_eq_iff]

/-- A session operation's move runs the latched CFGW word (R96). -/
theorem step_operation (s : State) (h : s.nextMove = .operation) :
    step s = exec (decodeCfgw s.selectCtx s.L.toCfgFields) s.popMove := by
  apply step_of_decode _ _ (by simp [h])
  rw [h]
  exact decode_cfgwBytes _ _

/-- START latches and clears, or is ignored; a session that begins gets a phase and an error report. -/
theorem start_eq_begin (s : State) :
    (s.phase.busy = true ∧ s.start = s) ∨
    (s.phase.busy = false ∧ ∃ p e c, s.start = { s.begin with phase := p, err := e, cause := c }) := by
  rcases start_cases s with h | ⟨hb, _, h⟩ | ⟨hb, _, h⟩
  · exact .inl h
  · exact .inr ⟨hb, _, _, _, h⟩
  · exact .inr ⟨hb, _, _, _, h⟩

/-- What a step can do: the reset event, a write of CFG or DIM, a START that begins a session, or
work that leaves the configuration as it was. -/
theorem step_next_cases (s t : State) (h : step s = .next t) :
    (s.nextMove = .reset ∧ t = s.popMove.resetEvent) ∨
    s.popMove.Extends t ∨
    (∃ data, decode s.selectCtx (s.fetchBytes s.nextMove) = .ok (.wrCfg data) ∧
      t = { s.popMove with cfg := data &&& cfgWritable }) ∨
    (∃ data, decode s.selectCtx (s.fetchBytes s.nextMove) = .ok (.wrDim data) ∧
      t = { s.popMove with dim := data }) ∨
    (s.phase.busy = false ∧
      (∃ data, decode s.selectCtx (s.fetchBytes s.nextMove) = .ok (.start data)) ∧
      ∃ p e c, t = { s.popMove.begin with phase := p, err := e, cause := c }) := by
  cases hm : s.nextMove with
  | reset =>
    obtain rfl : s.popMove.resetEvent = t := by simpa [step, hm] using h
    exact .inl ⟨rfl, rfl⟩
  | host w =>
    rw [step_host s w hm] at h
    obtain ⟨u, hu, hcases⟩ := exec_decodeHbus_cases (w.extractLsb' 40 1) (w.extractLsb' 32 8)
      (w.extractLsb' 0 32) s.popMove
    obtain rfl : u = t := by simpa [hu] using h
    have hd := decode_hbusBytes s.selectCtx w
    rcases hcases with rfl | ⟨v, rfl⟩ | ⟨hi, rfl⟩ | ⟨hi, rfl⟩ | ⟨hi, rfl⟩
    · exact .inr (.inl (.refl _))
    · exact .inr (.inl (.of_same rfl rfl rfl rfl rfl rfl rfl))
    · exact .inr (.inr (.inl ⟨_, hi ▸ hd, rfl⟩))
    · exact .inr (.inr (.inr (.inl ⟨_, hi ▸ hd, rfl⟩)))
    · rcases start_eq_begin s.popMove with ⟨_, e⟩ | ⟨hb, e⟩
      · exact .inr (.inl (e.symm ▸ .refl _))
      · exact .inr (.inr (.inr (.inr ⟨hb, ⟨_, hi ▸ hd⟩, e⟩)))
  | engine =>
    refine .inr (.inl ?_)
    rcases step_engine_cases s hm with ⟨_, e⟩ | ⟨_, e⟩ | ⟨_, e⟩ | ⟨_, e⟩ <;> rw [e] at h
    · obtain ⟨op, _, rfl⟩ := (execStepHdr_eq_next _ t).mp h
      exact headerStep_extends _ op
    · obtain ⟨op, _, hk, rfl⟩ := (execStepUnit_eq_next _ t).mp h
      exact unitStep_extends _ op hk
    · cases h
      exact (finish_extends _).trans (.of_same rfl rfl rfl rfl rfl rfl rfl)
    · cases h
      exact .refl _
  | producer w =>
    rw [step_producer s w hm] at h
    obtain ⟨u, hu, he⟩ := exec_decodePbus_extends s.selectCtx (w.extractLsb' 8 2)
      (w.extractLsb' 0 8) s.popMove
    obtain rfl : u = t := by simpa [hu] using h
    exact .inr (.inl he)
  | operation =>
    refine .inr (.inl ?_)
    rw [step_operation s hm] at h
    rcases exec_decodeCfgw_cases s.selectCtx s.L.toCfgFields s.popMove with
      ⟨cause, e⟩ | ⟨op, e⟩ <;> rw [e] at h
    · cases h
      exact raise_extends _ _
    · obtain ⟨hk, rfl⟩ := (runOperation_eq_next op _ _ t).mp h
      exact unitFunction_extends _ op _ hk

/-! ### CFG and DIM do not reach the ENGINE's steps (R79) -/

/-- The state with other values in CFG and DIM. -/
def State.withRegs (s : State) (cfg dim : Word) : State := { s with cfg := cfg, dim := dim }

/-- An answer with other values in CFG and DIM of its next state. -/
def Answer.withRegs (a : Answer) (cfg dim : Word) : Answer :=
  match a with
  | .next t => .next (t.withRegs cfg dim)
  | .fault e => .fault e
  | .refused r => .refused r

/-- The outcome of a unit's reads with other values in CFG and DIM of its state. -/
def ReadResult.withRegs (r : ReadResult) (cfg dim : Word) : ReadResult :=
  match r with
  | .colors cs t => .colors cs (t.withRegs cfg dim)
  | .unavailable x y t => .unavailable x y (t.withRegs cfg dim)

section

variable (s : State) (cfg dim : Word)

@[simp] theorem withRegs_L : (s.withRegs cfg dim).L = s.L := rfl
@[simp] theorem withRegs_k : (s.withRegs cfg dim).k = s.k := rfl

theorem sinkAppendAll_withRegs (bs : List Byte) :
    (s.withRegs cfg dim).sinkAppendAll bs = (s.sinkAppendAll bs).withRegs cfg dim := by
  simp only [sinkAppendAll_eq]
  rfl

theorem pushAll_withRegs (bs : List Byte) :
    (s.withRegs cfg dim).pushAll bs = (s.pushAll bs).withRegs cfg dim := by
  by_cases hr : s.L.rle = 1#1
  · rw [pushAll_rle (s.withRegs cfg dim) bs hr, pushAll_rle s bs hr, sinkAppendAll_withRegs]
    rfl
  · rw [pushAll_raw (s.withRegs cfg dim) bs hr, pushAll_raw s bs hr, sinkAppendAll_withRegs]

theorem finish_withRegs : (s.withRegs cfg dim).finish = s.finish.withRegs cfg dim := by
  by_cases hr : s.L.rle = 1#1
  · simp only [State.finish, State.finishRle, withRegs_L, hr, if_true, sinkAppendAll_withRegs]
    rfl
  · simp only [State.finish, withRegs_L, hr, if_false]
    rfl

theorem headerStep_withRegs (op : SessionOp) :
    (s.withRegs cfg dim).headerStep op = (s.headerStep op).withRegs cfg dim := by
  rw [State.headerStep, sinkAppendAll_withRegs]
  rfl

theorem readAll_withRegs (cs : List Coord) :
    (s.withRegs cfg dim).readAll cs = (s.readAll cs).withRegs cfg dim := by
  induction cs generalizing s with
  | nil => rfl
  | cons p cs ih =>
    obtain ⟨x, y⟩ := p
    have ha : (s.withRegs cfg dim).sourceAnswer x y = s.sourceAnswer x y := rfl
    have hsend : (s.withRegs cfg dim).sendRead x y = (s.sendRead x y).withRegs cfg dim := rfl
    simp only [State.readAll, ha, hsend, ih]
    cases s.sourceAnswer x y with
    | fail => rfl
    | ok c => cases (s.sendRead x y).readAll cs <;> rfl

theorem unitStep_withRegs (op : SessionOp) :
    (s.withRegs cfg dim).unitStep op = (s.unitStep op).withRegs cfg dim := by
  simp only [State.unitStep, withRegs_L, withRegs_k, readAll_withRegs]
  cases s.readAll (unitCoords op s.L.orient s.L s.k.toNat) with
  | unavailable x y t => rfl
  | colors cs t =>
    simp only [ReadResult.withRegs, pushAll_withRegs]
    rfl

theorem execStepHdr_withRegs :
    execStepHdr (s.withRegs cfg dim) = Answer.withRegs (execStepHdr s) cfg dim := by
  simp only [execStepHdr, withRegs_L]
  cases sessionOp s.L with
  | none => rfl
  | some op => exact congrArg _ (headerStep_withRegs s cfg dim op)

theorem execStepUnit_withRegs :
    execStepUnit (s.withRegs cfg dim) = Answer.withRegs (execStepUnit s) cfg dim := by
  simp only [execStepUnit, withRegs_L, withRegs_k]
  cases sessionOp s.L with
  | none => rfl
  | some op =>
    by_cases hk : s.k.toNat < unitCount op s.L
    · simp only [hk, if_true, unitStep_withRegs]
      rfl
    · simp only [hk, if_false]
      rfl

theorem execStepFin_withRegs :
    execStepFin (s.withRegs cfg dim) = Answer.withRegs (execStepFin s) cfg dim := by
  rw [execStepFin, finish_withRegs]
  rfl

end

/-! ### The obligations -/

/-- Settles O34: only a unit's reads extend the read log, and a unit's coordinates lie in the
canvas. -/
theorem readsStayInsideTheCanvas : Obligations.ReadsStayInsideTheCanvas := by
  intro s t h
  have noReads : t.reads = s.reads → ∃ coords, t.reads = s.reads ++ coords ∧
      ∀ p ∈ coords, p.1.toNat < s.L.w.toNat ∧ p.2.toNat < s.L.h.toNat :=
    fun hr => ⟨[], by simp [hr], nofun⟩
  rcases step_next_cases s t h with
    ⟨_, rfl⟩ | he | ⟨_, _, rfl⟩ | ⟨_, _, rfl⟩ | ⟨_, _, _, _, _, rfl⟩
  · exact noReads rfl
  · exact he.reads
  · exact noReads rfl
  · exact noReads rfl
  · exact noReads rfl

/-- Settles O45: the move is taken off before anything else, and nothing else writes the schedule. -/
theorem everyStepTakesOneMove : Obligations.EveryStepTakesOneMove := by
  intro s t h
  rcases step_next_cases s t h with
    ⟨_, rfl⟩ | he | ⟨_, _, rfl⟩ | ⟨_, _, rfl⟩ | ⟨_, _, _, _, _, rfl⟩
  · rfl
  · exact he.schedule
  · rfl
  · rfl
  · rfl

/-- Settles O46: a write of CFG, a write of DIM and a START that begins a session are the only
transitions that do more than extend. -/
theorem whatATransitionCanChange : Obligations.WhatATransitionCanChange := by
  intro s t h hm
  have nothing : ∃ bytes, s.out = s.out ++ bytes ∧ s.port = s.port ++ bytes := ⟨[], by simp⟩
  rcases step_next_cases s t h with
    ⟨hr, _⟩ | he | ⟨data, hd, rfl⟩ | ⟨data, hd, rfl⟩ | ⟨hb, hd, _, _, _, rfl⟩
  · exact absurd hr hm
  · exact ⟨.inl he.cfg, .inl he.dim, .inl he.L, .inl he.out⟩
  · exact ⟨.inr ⟨data, hd⟩, .inl rfl, .inl rfl, .inl nothing⟩
  · exact ⟨.inl rfl, .inr ⟨data, hd⟩, .inl rfl, .inl nothing⟩
  · exact ⟨.inl rfl, .inl rfl, .inr ⟨hb, hd⟩, .inr ⟨⟨hb, hd⟩, rfl, rfl⟩⟩

/-- Settles O47: an engine step's answer on other values of CFG and DIM is its answer with those
values in it. -/
theorem runningSessionReadsOnlyTheLatchedCopy :
    Obligations.RunningSessionReadsOnlyTheLatchedCopy := by
  intro i s cfg dim hi
  have h : exec i (s.withRegs cfg dim) = Answer.withRegs (exec i s) cfg dim := by
    simp only [List.mem_cons, List.not_mem_nil, or_false] at hi
    rcases hi with rfl | rfl | rfl
    · exact execStepHdr_withRegs s cfg dim
    · exact execStepUnit_withRegs s cfg dim
    · exact execStepFin_withRegs s cfg dim
  exact ⟨fun t ht => h.trans (congrArg (Answer.withRegs · cfg dim) ht),
    fun e he => h.trans (congrArg (Answer.withRegs · cfg dim) he)⟩

/-- Settles O44, by the model's rule for a step on bytes that decode. -/
theorem stepRunsTheDecodedInstruction : Obligations.StepRunsTheDecodedInstruction := step_of_decode

end Sys2Proof.Machine
end

section
/-! PROOFS. Family 30_encoding: the fields of an instruction's word, through which decoding and
encoding undo each other, and the row the CFGW decoder selects against validation. -/

namespace Sys2Proof

/-! ### The fields of a word -/

/-- A word of the block by its fields: one constructor per format (R90, R91, R95, R98, R100). -/
inductive WordFields where
  | hbus (we : BitVec 1) (addr : Byte) (data : Word)
  | cfgw (f : CfgFields)
  | pbus (op : BitVec 2) (data : Byte)
  | phase (code : BitVec 3)

namespace WordFields

/-- The format the fields are of. -/
def format : WordFields → Format
  | .hbus _ _ _ => .hbus
  | .cfgw _ => .cfgw
  | .pbus _ _ => .pbus
  | .phase _ => .phase

/-- The bytes of the word with these fields. -/
def bytes : WordFields → List Byte
  | .hbus we addr data => hbusBytes (hbusWord we addr data)
  | .cfgw f => cfgwBytes (cfgWordOf f)
  | .pbus op data => pbusBytes (pbusWord op data)
  | .phase code => [code.setWidth 8]

/-- What the decoder reads from the fields. -/
def decode (c : SelectCtx) : WordFields → Decoded
  | .hbus we addr data => .ok (decodeHbus we addr data)
  | .cfgw f => .ok (decodeCfgw c f)
  | .pbus op data => .ok (decodePbus c op data)
  | .phase code => decodePhase code

/-- The fields with the DATA bits that the row ignores at 0: those of a read (R91), and of IDLE and
FINISH (R98). -/
def clearIgnored : WordFields → WordFields
  | .hbus we addr data => .hbus we addr (if we = 1#1 then data else 0#32)
  | .cfgw f => .cfgw f
  | .pbus op data => .pbus op (if op = 1#2 ∨ op = 2#2 then data else 0#8)
  | .phase code => .phase code

/-- How many of the word's first bytes `clearIgnored` may change. -/
def ignoredBytes : WordFields → Nat
  | .hbus we _ _ => if we = 1#1 then 0 else 4
  | .pbus op _ => if op = 1#2 ∨ op = 2#2 then 0 else 1
  | .cfgw _ | .phase _ => 0

theorem length_bytes (w : WordFields) : w.bytes.length = formatBytes w.format := by
  cases w <;> rfl

end WordFields

/-- The fields of an instruction's own word, ignored DATA at 0. -/
def Instr.fields : Instr → WordFields
  | .wrCfg data => .hbus 1#1 0x00#8 data
  | .wrDim data => .hbus 1#1 0x04#8 data
  | .wrCtrl data | .start data => .hbus 1#1 0x08#8 data
  | .wrStatus data => .hbus 1#1 0x0C#8 data
  | .wrErrxy data => .hbus 1#1 0x10#8 data
  | .wrNone addr data => .hbus 1#1 addr data
  | .rdCfg => .hbus 0#1 0x00#8 0#32
  | .rdDim => .hbus 0#1 0x04#8 0#32
  | .rdCtrl => .hbus 0#1 0x08#8 0#32
  | .rdStatus => .hbus 0#1 0x0C#8 0#32
  | .rdErrxy => .hbus 0#1 0x10#8 0#32
  | .rdNone addr => .hbus 0#1 addr 0#32
  | .enc1Bit f | .enc4Bit f | .enc8Bit f | .enc8BitCol f | .encRgb565 f | .encArgb4444 f
  | .invalidFmt5 f | .invalidFmt67 f | .invalidOrient f | .invalid270Bit1 f | .invalid270Bit4 f
  | .invalid270Rgb565 f | .invalid270Argb4444 f | .invalidRows0 f | .invalidRowsDiv f => .cfgw f
  | .idle => .pbus 0#2 0#8
  | .append b => .pbus 1#2 b
  | .pushRaw b | .pushRle b => .pbus 2#2 b
  | .finishRaw | .finishRle => .pbus 3#2 0#8
  | .stepHdr => .phase 1#3
  | .stepUnit => .phase 2#3
  | .stepFin => .phase 3#3

/-- Encoding writes the bytes of the instruction's fields. -/
theorem encode_eq_bytes_fields (i : Instr) : encode i = i.fields.bytes := by cases i <;> rfl

theorem format_fields (i : Instr) : i.fields.format = i.format := by cases i <;> rfl

/-! ### Bits of bytes and of joined bytes -/

/-- No bit from k up is set in a word exactly when it is below 2 ^ k. -/
theorem extractLsb'_high_eq_zero_iff {n : Nat} (k m : Nat) (w : BitVec n) (h : n ≤ k + m) :
    w.extractLsb' k m = 0#m ↔ w.toNat < 2 ^ k := by
  have hlt : w.toNat / 2 ^ k < 2 ^ m :=
    Nat.div_lt_of_lt_mul ((w.isLt.trans_le (Nat.pow_le_pow_right (by omega) h)).trans_eq
      (Nat.pow_add 2 k m))
  rw [← BitVec.toNat_inj, BitVec.extractLsb'_toNat, BitVec.toNat_ofNat, Nat.zero_mod,
    Nat.shiftRight_eq_div_pow, Nat.mod_eq_of_lt hlt, Nat.div_eq_zero_iff]
  simp

/-- A word of at least 2 ^ k has a bit from k up. -/
theorem extractLsb'_high_ne_zero {n : Nat} (k m : Nat) (w : BitVec n) (hn : n ≤ k + m)
    (h : 2 ^ k ≤ w.toNat) : w.extractLsb' k m ≠ 0#m :=
  fun hz => absurd ((extractLsb'_high_eq_zero_iff k m w hn).mp hz) (Nat.not_lt.mpr h)

/-- Bits of joined bytes that lie in the first byte. -/
theorem extractLsb'_joinBytes_head (n k m : Nat) (b : Byte) (bs : List Byte) (h : k + m ≤ 8)
    (hn : 8 ≤ n) : (joinBytes n (b :: bs)).extractLsb' k m = b.extractLsb' k m := by
  apply BitVec.eq_of_getLsbD_eq
  intro i hi
  simp only [BitVec.getLsbD_extractLsb', joinBytes_getLsbD]
  simp [show k + i < 8 by omega, show k + i < n by omega]

/-- Bits of joined bytes that lie past the first byte. -/
theorem extractLsb'_joinBytes_tail (n k m : Nat) (b : Byte) (bs : List Byte) (h : 8 + k + m ≤ n) :
    (joinBytes n (b :: bs)).extractLsb' (8 + k) m = (joinBytes n bs).extractLsb' k m := by
  apply BitVec.eq_of_getLsbD_eq
  intro i hi
  simp only [BitVec.getLsbD_extractLsb', joinBytes_getLsbD]
  simp [show ¬ 8 + k + i < 8 by omega, show 8 + k + i < n by omega,
    show 8 + k + i - 8 = k + i by omega]

/-- A byte with no bit above its lowest three is those three. -/
theorem setWidth_extractLsb'_of_high_eq_zero (b : Byte) (h : b.extractLsb' 3 5 = 0#5) :
    (b.extractLsb' 0 3).setWidth 8 = b := by
  have hb : b.toNat < 2 ^ 3 := (extractLsb'_high_eq_zero_iff 3 5 b (by omega)).mp h
  apply BitVec.eq_of_toNat_eq
  simp only [BitVec.toNat_setWidth, BitVec.extractLsb'_toNat, Nat.shiftRight_zero]
  omega

/-! ### From bytes to fields -/

/-- A byte of a PHASE code decodes by the code. -/
theorem decode_phaseByte (c : SelectCtx) (code : BitVec 3) :
    decode c [code.setWidth 8] = decodePhase code := by
  have h : ∀ code : BitVec 3, decodePhaseByte (code.setWidth 8) = decodePhase code := by decide
  exact h code

/-- The bytes of a word decode by its fields. -/
theorem decode_bytes (c : SelectCtx) (w : WordFields) : decode c w.bytes = w.decode c := by
  cases w with
  | hbus we addr data => simp [WordFields.bytes, WordFields.decode, decode_hbusBytes]
  | cfgw f => exact decode_cfgwBytes c f
  | pbus op data => simp [WordFields.bytes, WordFields.decode, decode_pbusBytes]
  | phase code => exact decode_phaseByte c code

/-- A decoding that gave an instruction found nothing outside the word's bits. -/
theorem Decoded.of_ite_reject {p : Prop} [Decidable p] {d : Decoded} {e : DecodeError} {i : Instr}
    (h : (if p then d else .reject e) = .ok i) : p := by
  by_contra hp
  simp [hp] at h

/-- Bytes that decode are the bytes of a word. -/
theorem exists_bytes_eq_of_decode {c : SelectCtx} {bs : List Byte} {i : Instr}
    (h : decode c bs = .ok i) : ∃ w : WordFields, w.bytes = bs := by
  unfold decode at h
  split at h
  case h_1 b =>
    exact ⟨.phase _,
      congrArg (fun x => [x]) (setWidth_extractLsb'_of_high_eq_zero b (Decoded.of_ite_reject h))⟩
  case h_2 b0 b1 => exact ⟨.pbus _ _, pbusBytes_fields b0 b1 (Decoded.of_ite_reject h)⟩
  case h_3 b0 b1 b2 b3 =>
    exact ⟨.cfgw _, (congrArg cfgwBytes (cfgWordOf_cfgFieldsOf _ (Decoded.of_ite_reject h))).trans
      (cfgwBytes_joinBytes b0 b1 b2 b3)⟩
  case h_4 b0 b1 b2 b3 b4 b5 =>
    exact ⟨.hbus _ _ _, hbusBytes_fields b0 b1 b2 b3 b4 b5 (Decoded.of_ite_reject h)⟩
  case h_5 => cases h

/-- Bytes of no format's length are refused (R90). -/
theorem decode_of_badLength (c : SelectCtx) (bs : List Byte) (h : bs.length ∉ [1, 2, 4, 6]) :
    decode c bs = .reject (.badLength bs.length) := by
  unfold decode
  split <;> simp_all

/-! ### From fields to an instruction and back -/

/-- ORIENT = 0x is neither 270° nor the undefined code (R94). -/
theorem CfgFields.upright_iff (f : CfgFields) :
    f.upright = true ↔ f.orient ≠ 3#2 ∧ f.orient ≠ 2#2 := by
  have h : ∀ o : BitVec 2, (o == 0#2 || o == 1#2) = true ↔ o ≠ 3#2 ∧ o ≠ 2#2 := by decide
  exact h f.orient

/-- FMT below 5 is none of the undefined formats (R92). -/
theorem fmt_lt_five_iff (fmt : BitVec 3) :
    fmt.toNat < 5 ↔ fmt ≠ 5#3 ∧ ¬ (fmt = 6#3 ∨ fmt = 7#3) := by
  revert fmt; decide

/-- ARGB4444 is the format that is left when no other is (R92). -/
theorem fmt_eq_four_iff (fmt : BitVec 3) :
    fmt = 4#3 ↔ fmt ≠ 5#3 ∧ ¬ (fmt = 6#3 ∨ fmt = 7#3) ∧
      fmt ≠ 0#3 ∧ fmt ≠ 1#3 ∧ fmt ≠ 2#3 ∧ fmt ≠ 3#3 := by
  revert fmt; decide

/-- A well-formed instruction is what the decoder selects from its fields. -/
theorem decode_fields {c : SelectCtx} {i : Instr} (h : i.wellFormed c = true) :
    i.fields.decode c = .ok i := by
  cases i with
  | wrCfg | wrDim | wrStatus | wrErrxy | rdCfg | rdDim | rdCtrl | rdStatus | rdErrxy
  | idle | append | stepHdr | stepUnit | stepFin => rfl
  | wrCtrl data | start data =>
    simp_all [Instr.wellFormed, Instr.fields, WordFields.decode, decodeHbus]
  | wrNone addr data | rdNone addr =>
    simp_all [Instr.wellFormed, Instr.fields, WordFields.decode, decodeHbus, mappedOffsets]
  | enc1Bit f | enc4Bit f | enc8Bit f | enc8BitCol f | encRgb565 f | encArgb4444 f
  | invalidFmt5 f | invalidOrient f | invalid270Bit1 f | invalid270Bit4 f
  | invalid270Rgb565 f | invalid270Argb4444 f | invalidRows0 f | invalidRowsDiv f =>
    simp_all [Instr.wellFormed, Instr.fields, WordFields.decode, decodeCfgw, CfgFields.upright_iff,
      fmt_lt_five_iff]
  | invalidFmt67 f =>
    obtain h | h : f.fmt = 6#3 ∨ f.fmt = 7#3 := by simpa [Instr.wellFormed] using h
    all_goals simp [Instr.fields, WordFields.decode, decodeCfgw, h]
  | pushRaw b | pushRle b | finishRaw | finishRle =>
    simp_all [Instr.wellFormed, Instr.fields, WordFields.decode, decodePbus]

/-- Whatever HBUS fields select is well formed. -/
theorem decodeHbus_wellFormed (c : SelectCtx) (we : BitVec 1) (addr : Byte) (data : Word) :
    (decodeHbus we addr data).wellFormed c = true := by
  unfold decodeHbus
  split_ifs <;> simp_all [Instr.wellFormed, mappedOffsets]

/-- Whatever CFGW fields select is well formed. -/
theorem decodeCfgw_wellFormed (c : SelectCtx) (f : CfgFields) :
    (decodeCfgw c f).wellFormed c = true := by
  unfold decodeCfgw
  split_ifs <;> simp [*, Instr.wellFormed, CfgFields.upright_iff, fmt_lt_five_iff, fmt_eq_four_iff]

/-- Whatever PBUS fields select is well formed. -/
theorem decodePbus_wellFormed (c : SelectCtx) (op : BitVec 2) (data : Byte) :
    (decodePbus c op data).wellFormed c = true := by
  have h : c.rle ≠ 1#1 → c.rle = 0#1 := by generalize c.rle = r; revert r; decide
  unfold decodePbus
  split_ifs <;> simp_all [Instr.wellFormed]

/-- A PHASE code selects a step only when it is the step's own. -/
theorem decodePhase_eq_ok_iff (code : BitVec 3) (i : Instr) :
    decodePhase code = .ok i ↔
      (code = 1#3 ∧ i = .stepHdr) ∨ (code = 2#3 ∧ i = .stepUnit) ∨ (code = 3#3 ∧ i = .stepFin) := by
  unfold decodePhase
  split_ifs <;> simp_all [eq_comm]

/-- The HBUS fields of the selected instruction: a read's DATA is ignored (R91). -/
theorem decodeHbus_fields (we : BitVec 1) (addr : Byte) (data : Word) :
    (decodeHbus we addr data).fields = .hbus we addr (if we = 1#1 then data else 0#32) := by
  have h : we ≠ 1#1 → we = 0#1 := by revert we; decide
  unfold decodeHbus
  split_ifs <;> simp [*, Instr.fields]

/-- Every CFGW row carries the whole word's fields. -/
theorem decodeCfgw_fields (c : SelectCtx) (f : CfgFields) : (decodeCfgw c f).fields = .cfgw f := by
  unfold decodeCfgw
  split_ifs <;> rfl

/-- The PBUS fields of the selected instruction: DATA of IDLE and FINISH is ignored (R98). -/
theorem decodePbus_fields (c : SelectCtx) (op : BitVec 2) (data : Byte) :
    (decodePbus c op data).fields = .pbus op (if op = 1#2 ∨ op = 2#2 then data else 0#8) := by
  have h : op ≠ 0#2 → op ≠ 1#2 → op ≠ 2#2 → op = 3#2 := by revert op; decide
  unfold decodePbus
  split_ifs <;> simp_all [Instr.fields]

/-- What the decoder selects from fields is well formed. -/
theorem wellFormed_of_decode {c : SelectCtx} {w : WordFields} {i : Instr}
    (h : w.decode c = .ok i) : i.wellFormed c = true := by
  cases w with
  | hbus we addr data => cases h; exact decodeHbus_wellFormed c we addr data
  | cfgw f => cases h; exact decodeCfgw_wellFormed c f
  | pbus op data => cases h; exact decodePbus_wellFormed c op data
  | phase code =>
    rcases (decodePhase_eq_ok_iff code i).mp h with ⟨_, rfl⟩ | ⟨_, rfl⟩ | ⟨_, rfl⟩ <;> rfl

/-- What the decoder selects from fields has those fields, ignored DATA aside. -/
theorem fields_of_decode {c : SelectCtx} {w : WordFields} {i : Instr}
    (h : w.decode c = .ok i) : i.fields = w.clearIgnored := by
  cases w with
  | hbus we addr data => cases h; exact decodeHbus_fields we addr data
  | cfgw f => cases h; exact decodeCfgw_fields c f
  | pbus op data => cases h; exact decodePbus_fields c op data
  | phase code =>
    rcases (decodePhase_eq_ok_iff code i).mp h with ⟨rfl, rfl⟩ | ⟨rfl, rfl⟩ | ⟨rfl, rfl⟩ <;> rfl

/-! ### The DATA a row ignores -/

theorem ignoredBytes_fields (i : Instr) : i.fields.ignoredBytes = i.ignoredBytes := by
  cases i <;> rfl

/-- The bytes past an HBUS word's DATA. -/
theorem drop_hbusBytes (we : BitVec 1) (addr : Byte) (data : Word) :
    (hbusBytes (hbusWord we addr data)).drop 4 = [addr, we.setWidth 8] := by
  have hwe : byteOf 5 (hbusWord we addr data) = we.setWidth 8 := by
    apply BitVec.eq_of_getLsbD_eq
    intro i hi
    interval_cases i <;> simp [byteOf, hbusWord]
  exact congrArg₂ (fun a b => [a, b]) (hbusWord_addr we addr data) hwe

/-- The byte past a PBUS word's DATA. -/
theorem tail_pbusBytes (op : BitVec 2) (data : Byte) :
    (pbusBytes (pbusWord op data)).tail = [op.setWidth 8] := by
  have hop : byteOf 1 (pbusWord op data) = op.setWidth 8 := by
    apply BitVec.eq_of_getLsbD_eq
    intro i hi
    interval_cases i <;> simp [byteOf, pbusWord]
  exact congrArg (fun a => [a]) hop

namespace WordFields

theorem ignoredBytes_clearIgnored (w : WordFields) :
    w.clearIgnored.ignoredBytes = w.ignoredBytes := by
  cases w <;> rfl

theorem format_clearIgnored (w : WordFields) : w.clearIgnored.format = w.format := by
  cases w <;> rfl

/-- Ignored DATA lies in the first `ignoredBytes` bytes of the word. -/
theorem drop_bytes_clearIgnored (w : WordFields) :
    w.clearIgnored.bytes.drop w.ignoredBytes = w.bytes.drop w.ignoredBytes := by
  cases w with
  | hbus we addr data =>
    by_cases h : we = 1#1
    · simp [clearIgnored, h]
    · simp [clearIgnored, ignoredBytes, bytes, h, drop_hbusBytes]
  | pbus op data =>
    by_cases h : op = 1#2 ∨ op = 2#2
    · simp [clearIgnored, h]
    · simp [clearIgnored, ignoredBytes, bytes, h, tail_pbusBytes]
  | cfgw | phase => rfl

end WordFields

/-! ### The instruction of a session operation -/

/-- The instruction of a session operation with these fields (R96). -/
def SessionOp.instr (f : CfgFields) : SessionOp → Instr
  | .enc1Bit => .enc1Bit f
  | .enc4Bit => .enc4Bit f
  | .enc8Bit => .enc8Bit f
  | .enc8BitCol => .enc8BitCol f
  | .encRgb565 => .encRgb565 f
  | .encArgb4444 => .encArgb4444 f

theorem SessionOp.fields_instr (op : SessionOp) (f : CfgFields) : (op.instr f).fields = .cfgw f := by
  cases op <;> rfl

end Sys2Proof

namespace Sys2Proof.Machine

/-! ### The selected row against validation (R96, R97, R151) -/

/-- The decoder selects an illegal word exactly for its cause. -/
theorem invalidCause_decodeCfgw (rle : BitVec 1) (L : Latched) :
    invalidCause (decodeCfgw ⟨rle, L.h⟩ L.toCfgFields) = validate L := by
  unfold decodeCfgw
  split_ifs <;> simp [*, invalidCause, validate]

/-- The decoder selects the session operation of L, if any. -/
theorem operationOf_decodeCfgw (rle : BitVec 1) (L : Latched) :
    operationOf (decodeCfgw ⟨rle, L.h⟩ L.toCfgFields) = sessionOp L := by
  unfold decodeCfgw
  split_ifs <;> simp [*, operationOf, sessionOp, validate]

/-- An instruction with CFGW fields stands for an operation when it is that operation's. -/
theorem operationOf_eq_some_iff {i : Instr} {f : CfgFields} (hi : i.fields = .cfgw f)
    (op : SessionOp) :
    operationOf i = some op ↔ i = op.instr f := by
  constructor
  · intro h
    cases i with
    | enc1Bit | enc4Bit | enc8Bit | enc8BitCol | encRgb565 | encArgb4444 =>
      cases h
      cases hi
      rfl
    | _ => cases h
  · rintro rfl
    cases op <;> rfl

/-- L selects an operation exactly when the operation's instruction is well formed for L. -/
theorem sessionOp_eq_some_iff (L : Latched) (op : SessionOp) :
    sessionOp L = some op ↔ (op.instr L.toCfgFields).wellFormed ⟨L.rle, L.h⟩ = true := by
  rw [← operationOf_decodeCfgw L.rle L, operationOf_eq_some_iff (decodeCfgw_fields _ _)]
  constructor
  · intro h
    rw [← h]
    exact decodeCfgw_wellFormed _ _
  · intro h
    have hd := decode_fields h
    rw [op.fields_instr] at hd
    exact Decoded.ok.inj hd

/-! ### The obligations -/

/-- Settles O58: the bytes of an instruction's fields decode by the fields, and a well-formed
instruction is what its fields select. -/
theorem decodeInvertsEncode : Obligations.DecodeInvertsEncode := by
  intro c i h
  rw [encode_eq_bytes_fields, decode_bytes, decode_fields h]

/-- Settles O59: the bytes are those of a word, and what its fields select is well formed and has
those fields, ignored DATA aside. -/
theorem decodedInstructionIsWellFormed : Obligations.DecodedInstructionIsWellFormed := by
  intro c bs i h
  obtain ⟨w, rfl⟩ := exists_bytes_eq_of_decode h
  rw [decode_bytes] at h
  have hfields := fields_of_decode h
  have hformat : i.format = w.format := by
    rw [← format_fields, hfields, w.format_clearIgnored]
  have hignored : i.ignoredBytes = w.ignoredBytes := by
    rw [← ignoredBytes_fields, hfields, w.ignoredBytes_clearIgnored]
  refine ⟨wellFormed_of_decode h, by rw [hformat, w.length_bytes], ?_⟩
  rw [encode_eq_bytes_fields, hfields, hignored, w.drop_bytes_clearIgnored]

/-- Settles O12, by the decoder's branches, each against validation. -/
theorem decodedWordAgreesWithValidation : Obligations.DecodedWordAgreesWithValidation :=
  fun L rle => ⟨invalidCause_decodeCfgw rle L, operationOf_decodeCfgw rle L⟩

/-- Settles O13: the decoder selects an operation exactly when its row's condition holds. -/
theorem sessionOperationIsSelectedByTheTable : Obligations.SessionOperationIsSelectedByTheTable := by
  intro L
  refine ⟨(sessionOp_eq_some_iff L _).trans ?_, (sessionOp_eq_some_iff L _).trans ?_,
    (sessionOp_eq_some_iff L _).trans ?_, (sessionOp_eq_some_iff L _).trans ?_,
    (sessionOp_eq_some_iff L _).trans ?_, (sessionOp_eq_some_iff L _).trans ?_, fun _ _ _ => rfl⟩
  · have hmod : L.h % L.rows = 0#16 ↔ L.h.toNat % L.rows.toNat = 0 := by
      rw [← BitVec.toNat_inj, BitVec.toNat_umod]; rfl
    simp [SessionOp.instr, Instr.wellFormed, CfgFields.upright, hmod, and_assoc]
  all_goals simp [SessionOp.instr, Instr.wellFormed, CfgFields.upright]

/-- Settles O14, each word by its meaning. -/
theorem illegalWordsRaiseTheirCause : Obligations.IllegalWordsRaiseTheirCause :=
  fun _ _ => ⟨rfl, rfl, rfl, rfl, rfl, rfl, rfl, rfl, rfl⟩

/-- Settles O56, each word by evaluation. -/
theorem workedEncodings : Obligations.WorkedEncodings := by
  unfold Obligations.WorkedEncodings
  decide

/-- Settles O57, each word by evaluation. -/
theorem sampleWordsDecode : Obligations.SampleWordsDecode := by
  unfold Obligations.SampleWordsDecode
  decide

/-- Settles O60: the bits that each check of the decoder looks at are the high bits of a byte, and
they are not all 0. -/
theorem reservedWordsAreRefused : Obligations.ReservedWordsAreRefused := by
  intro c b0 b1 b2 b3 b4 b5 bs
  have hphase (h : 8 ≤ b0.toNat) : b0.extractLsb' 3 5 ≠ 0#5 :=
    extractLsb'_high_ne_zero 3 5 b0 (by omega) h
  have hpbus (h : 4 ≤ b1.toNat) : (joinBytes 16 [b0, b1]).extractLsb' 10 6 ≠ 0#6 := by
    rw [extractLsb'_joinBytes_tail 16 2 6 b0 _ (by omega),
      extractLsb'_joinBytes_head 16 2 6 b1 _ (by omega) (by omega)]
    exact extractLsb'_high_ne_zero 2 6 b1 (by omega) h
  have hcfgw (h : b1 ≠ 0#8) : (joinBytes 32 [b0, b1, b2, b3]).extractLsb' 8 8 ≠ 0#8 := by
    rw [extractLsb'_joinBytes_tail 32 0 8 b0 _ (by omega)]
    exact (byteOf_joinBytes_zero 32 b1 [b2, b3] (by omega)).trans_ne h
  have hhbus (h : 2 ≤ b5.toNat) :
      (joinBytes 48 [b0, b1, b2, b3, b4, b5]).extractLsb' 41 7 ≠ 0#7 := by
    rw [extractLsb'_joinBytes_tail 48 33 7 b0 _ (by omega),
      extractLsb'_joinBytes_tail 48 25 7 b1 _ (by omega),
      extractLsb'_joinBytes_tail 48 17 7 b2 _ (by omega),
      extractLsb'_joinBytes_tail 48 9 7 b3 _ (by omega),
      extractLsb'_joinBytes_tail 48 1 7 b4 _ (by omega),
      extractLsb'_joinBytes_head 48 1 7 b5 _ (by omega) (by omega)]
    exact extractLsb'_high_ne_zero 1 7 b5 (by omega) h
  exact ⟨rfl, rfl, rfl, rfl, rfl, fun h => if_neg (hphase h), fun h => if_neg (hpbus h),
    fun h => if_neg (hcfgw h), fun h => if_neg (hhbus h), decode_of_badLength c bs⟩

end Sys2Proof.Machine
end

section
/-! PROOFS. Family 40_byte_producer: what each PBUS word does, what the run-length transform writes for
whole streams, and its reference inverse. -/

namespace Sys2Proof.Machine

/-! ### The transform, branch by branch (R124) -/

/-- A byte that differs from the one remembered closes an open run and stands as a literal. -/
theorem rlePush_of_prev_ne {r : RleState} {b : Byte} (h : r.prev ≠ some b) :
    rlePush r b = ({ r with rmode := .literal, prev := some b }, rleFlush r ++ [b]) := by
  obtain ⟨m, p, n⟩ := r
  cases m <;> exact if_neg h

/-- A repeat of a literal is written and opens a run. -/
theorem rlePush_opens_run {r : RleState} {b : Byte} (hm : r.rmode = .literal)
    (h : r.prev = some b) : rlePush r b = ({ r with rmode := .run, count := 0#8 }, [b]) := by
  simp [rlePush, hm, h]

/-- A repeat in an open run is counted, up to 254. -/
theorem rlePush_counts {r : RleState} {b : Byte} (hm : r.rmode = .run) (h : r.prev = some b)
    (hc : r.count.toNat < 254) : rlePush r b = ({ r with count := r.count + 1#8 }, []) := by
  have hne : r.count + 1#8 ≠ 255#8 := by bv_omega
  simp [rlePush, hm, h, hne]

/-- The 255th counted repeat closes the run and clears the remembered byte. -/
theorem rlePush_at_cap {r : RleState} {b : Byte} (hm : r.rmode = .run) (h : r.prev = some b)
    (hc : r.count.toNat = 254) :
    rlePush r b = ({ rmode := .literal, prev := none, count := 255#8 }, [255#8]) := by
  have hcount : r.count = 254#8 := BitVec.eq_of_toNat_eq hc
  simp [rlePush, hm, h, hcount]

/-- After a byte is pushed, no other byte is remembered. -/
theorem rlePush_remembers (r : RleState) (b : Byte) :
    (rlePush r b).1.prev = some b ∨ (rlePush r b).1.prev = none := by
  rcases rlePush_cases r b with ⟨_, h, e⟩ | ⟨_, _, e⟩ | ⟨_, _, _, e⟩ | ⟨_, h, _, e⟩ | ⟨_, _, e⟩ <;>
    rw [e]
  · exact .inl h
  · exact .inl rfl
  · exact .inr rfl
  · exact .inl h
  · exact .inl rfl

@[simp] theorem rleFlush_of_literal {r : RleState} (hm : r.rmode = .literal) : rleFlush r = [] := by
  simp [rleFlush, hm]

@[simp] theorem rleFlush_of_run {r : RleState} (hm : r.rmode = .run) : rleFlush r = [r.count] := by
  simp [rleFlush, hm]

/-! ### The encoder, byte by byte -/

@[simp] theorem rleEncodeFrom_nil (r : RleState) : rleEncodeFrom r [] = rleFlush r := rfl

theorem rleEncodeFrom_cons (r : RleState) (b : Byte) (bs : List Byte) :
    rleEncodeFrom r (b :: bs) = (rlePush r b).2 ++ rleEncodeFrom (rlePush r b).1 bs := by
  simp [rleEncodeFrom, rlePushAll]

theorem rleEncodeFrom_cons_of_push {r r' : RleState} {b : Byte} {w : List Byte}
    (h : rlePush r b = (r', w)) (bs : List Byte) :
    rleEncodeFrom r (b :: bs) = w ++ rleEncodeFrom r' bs := by
  rw [rleEncodeFrom_cons, h]

theorem rleEncodeFrom_append (r : RleState) (xs ys : List Byte) :
    rleEncodeFrom r (xs ++ ys) = (rlePushAll r xs).2 ++ rleEncodeFrom (rlePushAll r xs).1 ys := by
  simp [rleEncodeFrom, rlePushAll_append]

/-- A stream that starts with a byte other than the one remembered. -/
theorem rleEncodeFrom_cons_of_prev_ne {r : RleState} {b : Byte} (h : r.prev ≠ some b)
    (bs : List Byte) :
    rleEncodeFrom r (b :: bs) =
      rleFlush r ++ b :: rleEncodeFrom { r with rmode := .literal, prev := some b } bs := by
  simp [rleEncodeFrom_cons_of_push (rlePush_of_prev_ne h)]

/-- Two equal bytes, other than the one remembered, open a run that has no repeat to count yet. -/
theorem rlePushAll_pair {r : RleState} {v : Byte} (h : r.prev ≠ some v) :
    rlePushAll r [v, v] = (⟨.run, some v, 0#8⟩, rleFlush r ++ [v, v]) := by
  have hrun : rlePush { r with rmode := .literal, prev := some v } v = (⟨.run, some v, 0#8⟩, [v]) :=
    rlePush_opens_run rfl rfl
  simp [rlePushAll, rlePush_of_prev_ne h, hrun]

/-! ### Streams of pairwise different neighbours, and of pairs (R131, R132) -/

/-- Without repeats an open run is closed and the stream follows as literals. -/
theorem rleEncodeFrom_of_isChain {bs : List Byte} (hbs : bs.IsChain (· ≠ ·)) (r : RleState)
    (hr : ∀ b ∈ bs.head?, r.prev ≠ some b) : rleEncodeFrom r bs = rleFlush r ++ bs := by
  induction bs generalizing r with
  | nil => simp
  | cons b bs ih =>
    obtain ⟨hhead, htail⟩ := List.isChain_cons.mp hbs
    rw [rleEncodeFrom_cons_of_prev_ne (hr b rfl), ih htail _ (by simpa using hhead)]
    simp

/-- Pairs of equal bytes, neighbouring pairs different, are runs with nothing to count. -/
theorem rleEncodeFrom_pairs {vs : List Byte} (hvs : vs.IsChain (· ≠ ·)) (r : RleState)
    (hr : ∀ v ∈ vs.head?, r.prev ≠ some v) :
    rleEncodeFrom r (vs.flatMap fun v => [v, v]) =
      rleFlush r ++ vs.flatMap fun v => [v, v, 0#8] := by
  induction vs generalizing r with
  | nil => simp
  | cons v vs ih =>
    obtain ⟨hhead, htail⟩ := List.isChain_cons.mp hvs
    rw [List.flatMap_cons, rleEncodeFrom_append, rlePushAll_pair (hr v rfl),
      ih htail _ (by simpa using hhead)]
    simp

/-! ### The length of what is written (R132) -/

/-- Half bytes the transform may write beyond one and a half per byte still to be pushed: one for a
remembered literal, whose repeat opens a run, and two for the count of an open run. -/
def RleState.owed (r : RleState) : Nat :=
  match r.rmode, r.prev with
  | .literal, none => 0
  | .literal, some _ => 1
  | .run, _ => 2

theorem length_rlePush_add_owed_le (r : RleState) (b : Byte) :
    2 * (rlePush r b).2.length + (rlePush r b).1.owed ≤ 3 + r.owed := by
  rcases rlePush_cases r b with ⟨hm, hp, e⟩ | ⟨hm, _, e⟩ | ⟨hm, _, _, e⟩ | ⟨hm, _, _, e⟩ | ⟨hm, _, e⟩ <;>
    simp [RleState.owed, *]

theorem length_rleFlush_le_owed (r : RleState) : 2 * (rleFlush r).length ≤ r.owed := by
  cases hm : r.rmode
  · simp [hm]
  · simp [hm, RleState.owed]

theorem length_rleEncodeFrom_le (r : RleState) (bs : List Byte) :
    2 * (rleEncodeFrom r bs).length ≤ 3 * bs.length + r.owed := by
  induction bs generalizing r with
  | nil => simpa using length_rleFlush_le_owed r
  | cons b bs ih =>
    have hpush := length_rlePush_add_owed_le r b
    have hrest := ih (rlePush r b).1
    rw [rleEncodeFrom_cons, List.length_append, List.length_cons]
    omega

/-! ### Runs (R128) -/

/-- Repeats in an open run write nothing while the count stays below the cap. -/
theorem rlePushAll_counts (v : Byte) (c j : Nat) (h : c + j ≤ 254) :
    rlePushAll ⟨.run, some v, BitVec.ofNat 8 c⟩ (List.replicate j v) =
      (⟨.run, some v, BitVec.ofNat 8 (c + j)⟩, []) := by
  induction j generalizing c with
  | zero => rfl
  | succ j ih =>
    have hpush : rlePush ⟨.run, some v, BitVec.ofNat 8 c⟩ v =
        (⟨.run, some v, BitVec.ofNat 8 (c + 1)⟩, []) := by
      rw [rlePush_counts rfl rfl (by simp; omega), BitVec.ofNat_add]
    rw [List.replicate_succ, rlePushAll, hpush, ih (c + 1) (by omega), Nat.add_right_comm]
    rfl

/-- A run of 2 to 256 bytes stays open. -/
theorem rlePushAll_replicate {r : RleState} {v : Byte} (hm : r.rmode = .literal)
    (hp : r.prev ≠ some v) (j : Nat) (hj : j ≤ 254) :
    rlePushAll r (List.replicate (2 + j) v) = (⟨.run, some v, BitVec.ofNat 8 j⟩, [v, v]) := by
  have hcount := rlePushAll_counts v 0 j (by omega)
  rw [Nat.zero_add] at hcount
  rw [List.replicate_add, rlePushAll_append, show List.replicate 2 v = [v, v] from rfl,
    rlePushAll_pair hp, rleFlush_of_literal hm, hcount]
  rfl

/-- A run of 257 bytes is one full segment, after which nothing is remembered. -/
theorem rlePushAll_segment {r : RleState} {v : Byte} (hm : r.rmode = .literal)
    (hp : r.prev ≠ some v) :
    rlePushAll r (List.replicate 257 v) = (⟨.literal, none, 255#8⟩, [v, v, 255#8]) := by
  have hcap : rlePush ⟨.run, some v, BitVec.ofNat 8 254⟩ v = (⟨.literal, none, 255#8⟩, [255#8]) :=
    rlePush_at_cap rfl rfl rfl
  rw [show 257 = (2 + 254) + 1 from rfl, List.replicate_succ', rlePushAll_append,
    rlePushAll_replicate hm hp 254 le_rfl, rlePushAll, hcap]
  rfl

/-- The tail of a run: what its last 1 to 257 bytes are written as. -/
def runTail (v : Byte) (n : Nat) : List Byte := if n = 1 then [v] else [v, v, BitVec.ofNat 8 (n - 2)]

theorem rleEncodeFrom_runTail {r : RleState} {v : Byte} (hm : r.rmode = .literal)
    (hp : r.prev ≠ some v) (n : Nat) (h1 : 1 ≤ n) (h257 : n ≤ 257) :
    rleEncodeFrom r (List.replicate n v) = runTail v n := by
  rcases (show n = 1 ∨ n = 257 ∨ n = 2 + (n - 2) ∧ n - 2 ≤ 254 by omega) with
    rfl | rfl | ⟨hn, hle⟩
  · rw [show List.replicate 1 v = [v] from rfl, rleEncodeFrom_cons_of_prev_ne hp,
      rleFlush_of_literal hm]
    rfl
  · rw [rleEncodeFrom, rlePushAll_segment hm hp]
    rfl
  · rw [hn, rleEncodeFrom, rlePushAll_replicate hm hp _ hle, runTail, if_neg (by omega),
      Nat.add_sub_cancel_left]
    rfl

/-- A run is its full segments and its tail. -/
theorem rleEncodeFrom_run {r : RleState} {v : Byte} (hm : r.rmode = .literal)
    (hp : r.prev ≠ some v) (q n : Nat) (h1 : 1 ≤ n) (h257 : n ≤ 257) :
    rleEncodeFrom r (List.replicate (257 * q + n) v) =
      (List.replicate q [v, v, 255#8]).flatten ++ runTail v n := by
  induction q generalizing r with
  | zero => simpa using rleEncodeFrom_runTail hm hp n h1 h257
  | succ q ih =>
    rw [show 257 * (q + 1) + n = 257 + (257 * q + n) by omega, List.replicate_add,
      rleEncodeFrom_append, rlePushAll_segment hm hp, ih rfl (by simp)]
    rfl

/-- A run is closed by a different byte as by FINISH, and the byte then stands as a literal. -/
theorem rlePushAll_run_then_other (r : RleState) {v b : Byte} (m : Nat) (hb : b ≠ v) :
    (rlePushAll r (List.replicate (m + 1) v ++ [b])).2 =
      rleEncodeFrom r (List.replicate (m + 1) v) ++ [b] ∧
    (rlePushAll r (List.replicate (m + 1) v ++ [b])).1.rmode = .literal ∧
    (rlePushAll r (List.replicate (m + 1) v ++ [b])).1.prev = some b := by
  have hprev : (rlePushAll r (List.replicate (m + 1) v)).1.prev ≠ some b := by
    rw [List.replicate_succ', rlePushAll_append]
    rcases rlePush_remembers (rlePushAll r (List.replicate m v)).1 v with h | h <;>
      simp [rlePushAll, h, hb.symm]
  simp [rlePushAll_append, rlePushAll, rlePush_of_prev_ne hprev, rleEncodeFrom]

/-! ### The reference inverse (R137) -/

/-- A byte other than the one remembered is a literal. -/
theorem decodeRleFrom_cons_of_ne {p : Option Byte} {b : Byte} (h : p ≠ some b) (t : List Byte) :
    decodeRleFrom p (b :: t) = (decodeRleFrom (some b) t).map (b :: ·) := by
  cases t <;> simp [decodeRleFrom, h]

/-- A repeat of the remembered byte is followed by its count. -/
theorem decodeRleFrom_cons_self (b c : Byte) (t : List Byte) :
    decodeRleFrom (some b) (b :: c :: t) =
      (decodeRleFrom none t).map fun res => b :: (List.replicate c.toNat b ++ res) := by
  simp [decodeRleFrom]

/-- What the decoder gives back for the rest of a stream: in LITERAL it remembers the encoder's byte;
in an open run it has the run's second byte before it, and the repeats counted so far come back. -/
theorem decodeRleFrom_rleEncodeFrom (bs : List Byte) :
    (∀ r : RleState, r.rmode = .literal → decodeRleFrom r.prev (rleEncodeFrom r bs) = some bs) ∧
    (∀ (r : RleState) (p : Byte), r.rmode = .run → r.prev = some p → r.count.toNat ≤ 254 →
      decodeRleFrom (some p) (p :: rleEncodeFrom r bs) =
        some (p :: (List.replicate r.count.toNat p ++ bs))) := by
  induction bs with
  | nil =>
    refine ⟨fun r hm => ?_, fun r p hm _ _ => ?_⟩
    · rw [rleEncodeFrom_nil, rleFlush_of_literal hm]
      rfl
    · rw [rleEncodeFrom_nil, rleFlush_of_run hm, decodeRleFrom_cons_self]
      rfl
  | cons b bs ih =>
    obtain ⟨ihLiteral, ihRun⟩ := ih
    -- a literal, once b is not the byte the decoder remembers
    have hfresh : ∀ (p : Option Byte) (r : RleState), p ≠ some b → r.rmode = .literal →
        r.prev = some b → decodeRleFrom p (b :: rleEncodeFrom r bs) = some (b :: bs) := by
      intro p r hne hm hp
      rw [decodeRleFrom_cons_of_ne hne, ← hp, ihLiteral r hm]
      rfl
    refine ⟨fun r hm => ?_, fun r p hm hp hc => ?_⟩
    · by_cases hb : r.prev = some b
      · rw [rleEncodeFrom_cons_of_push (rlePush_opens_run hm hb), hb]
        exact ihRun _ b rfl rfl (Nat.zero_le _)
      · rw [rleEncodeFrom_cons_of_prev_ne hb, rleFlush_of_literal hm]
        exact hfresh _ _ hb rfl rfl
    · by_cases hb : r.prev = some b
      · obtain rfl : p = b := Option.some.inj (hp.symm.trans hb)
        -- the repeat just pushed is the last of the repeats that come back
        have hsnoc : List.replicate r.count.toNat p ++ p :: bs =
            List.replicate (r.count.toNat + 1) p ++ bs := by simp [List.replicate_succ']
        rw [hsnoc]
        by_cases hcap : r.count.toNat = 254
        · have hrest := ihLiteral ⟨.literal, none, 255#8⟩ rfl
          rw [rleEncodeFrom_cons_of_push (rlePush_at_cap hm hp hcap), List.singleton_append,
            decodeRleFrom_cons_self, hrest, hcap]
          rfl
        · have hsucc : (r.count + 1#8).toNat = r.count.toNat + 1 := by bv_omega
          rw [rleEncodeFrom_cons_of_push (rlePush_counts hm hp (by omega)), List.nil_append, ← hsucc]
          exact ihRun _ p hm hp (by bv_omega)
      · rw [rleEncodeFrom_cons_of_prev_ne hb, rleFlush_of_run hm, List.singleton_append,
          decodeRleFrom_cons_self, hfresh none _ nofun rfl rfl]
        rfl

/-! ### The producer over the state -/

/-- PUSH in RLE mode writes what the transform gives. -/
theorem pushRle_eq (s : State) (b : Byte) :
    s.pushRle b =
      { s with out := s.out ++ (rlePush s.rle b).2, port := s.port ++ (rlePush s.rle b).2,
               rmode := (rlePush s.rle b).1.rmode, prev := (rlePush s.rle b).1.prev,
               count := (rlePush s.rle b).1.count } := by
  rw [State.pushRle, sinkAppendAll_eq]
  rfl

/-- FINISH in RLE mode writes the open run's count and returns to the START state. -/
theorem finishRle_eq (s : State) :
    s.finishRle =
      { s with out := s.out ++ rleFlush s.rle, port := s.port ++ rleFlush s.rle,
               rmode := .literal, prev := none, count := 0#8 } := by
  rw [State.finishRle, sinkAppendAll_eq]
  rfl

/-- FINISH in RLE mode changes nothing in the START state. -/
theorem finishRle_of_rleStart {s : State} (h : s.rle = rleStart) : s.finishRle = s := by
  rw [State.finishRle, ← h, rleFlush_of_literal (congrArg RleState.rmode h)]
  rfl

/-- PUSH of a list and FINISH in RLE mode write the list's encoding and leave the START state. -/
theorem finish_pushAll_rle (s : State) (bs : List Byte) (h : s.L.rle = 1#1) :
    (s.pushAll bs).finish = (s.sinkAppendAll (rleEncodeFrom s.rle bs)).setRle rleStart := by
  have hfinish : (s.pushAll bs).finish = (s.pushAll bs).finishRle := if_pos (by simpa using h)
  rw [hfinish, State.finishRle, pushAll_rle s bs h]
  simp [sinkAppendAll_eq, State.setRle, rleEncodeFrom, State.rle]

/-- PUSH of a list and FINISH in raw mode append the list. -/
theorem finish_pushAll_raw (s : State) (bs : List Byte) (h : s.L.rle ≠ 1#1) :
    (s.pushAll bs).finish = s.sinkAppendAll bs := by
  have hfinish : (s.pushAll bs).finish = s.pushAll bs := if_neg (by simpa using h)
  rw [hfinish, pushAll_raw s bs h]

/-! ### The producer driven alone over PBUS -/

/-- A PBUS word made of fields decodes by them. -/
theorem decode_pbusWord (c : SelectCtx) (op : BitVec 2) (data : Byte) :
    decode c (pbusBytes (pbusWord op data)) = .ok (decodePbus c op data) :=
  decode_bytes c (.pbus op data)

/-- A PUSH word pushes its byte in the latched mode. -/
theorem step_push {s : State} {b : Byte} (h : s.nextMove = .producer (pbusWord 2#2 b)) :
    step s = .next (s.popMove.push b) := by
  rw [step_producer s _ h, pbusWord_op, pbusWord_data]
  by_cases hr : s.L.rle = 1#1 <;>
    simp [decodePbus, State.selectCtx, State.push, exec, execPushRle, execPushRaw, hr]

/-- A FINISH word finishes in the latched mode. -/
theorem step_finish {s : State} {b : Byte} (h : s.nextMove = .producer (pbusWord 3#2 b)) :
    step s = .next s.popMove.finish := by
  rw [step_producer s _ h, pbusWord_op, pbusWord_data]
  by_cases hr : s.L.rle = 1#1 <;>
    simp [decodePbus, State.selectCtx, State.finish, exec, execFinishRle, execFinishRaw, hr]

/-- The state with other moves still to come. -/
def State.withSchedule (s : State) (ms : List Move) : State := { s with schedule := ms }

@[simp] theorem withSchedule_withSchedule (s : State) (ms ns : List Move) :
    (s.withSchedule ms).withSchedule ns = s.withSchedule ns := rfl

theorem sinkAppendAll_withSchedule (s : State) (bs : List Byte) (ms : List Move) :
    (s.withSchedule ms).sinkAppendAll bs = (s.sinkAppendAll bs).withSchedule ms := by
  simp only [sinkAppendAll_eq]
  rfl

theorem pushAll_withSchedule (s : State) (bs : List Byte) (ms : List Move) :
    (s.withSchedule ms).pushAll bs = (s.pushAll bs).withSchedule ms := by
  by_cases hr : s.L.rle = 1#1
  · rw [pushAll_rle (s.withSchedule ms) bs hr, pushAll_rle s bs hr, sinkAppendAll_withSchedule]
    rfl
  · rw [pushAll_raw (s.withSchedule ms) bs hr, pushAll_raw s bs hr, sinkAppendAll_withSchedule]

theorem push_withSchedule (s : State) (b : Byte) (ms : List Move) :
    (s.withSchedule ms).push b = (s.push b).withSchedule ms :=
  pushAll_withSchedule s [b] ms

/-- PUSH words, one per byte, push the bytes and leave the rest of the schedule. -/
theorem run_pushes (s : State) (bs : List Byte) (ms : List Move)
    (h : s.schedule = bs.map (fun b => .producer (pbusWord 2#2 b)) ++ ms) :
    Host.Core.run Sys2Proof.core bs.length s = .next ((s.withSchedule ms).pushAll bs) := by
  induction bs generalizing s with
  | nil =>
    obtain rfl : s.schedule = ms := h
    rfl
  | cons b bs ih =>
    have hnext : s.nextMove = .producer (pbusWord 2#2 b) := by simp [State.nextMove, h]
    have hpop : s.popMove = s.withSchedule (bs.map (fun b => .producer (pbusWord 2#2 b)) ++ ms) := by
      simp [State.popMove, State.withSchedule, h]
    rw [List.length_cons, run_succ _ _ _ (step_push hnext), hpop, push_withSchedule, ih _ rfl,
      withSchedule_withSchedule, ← push_withSchedule]
    rfl

/-- PUSH words, one per byte, and a FINISH word push the bytes and finish. -/
theorem run_pushes_finish (s : State) (bs : List Byte)
    (h : s.schedule =
      bs.map (fun b => .producer (pbusWord 2#2 b)) ++ [.producer (pbusWord 3#2 0#8)]) :
    Host.Core.run Sys2Proof.core (bs.length + 1) s =
      .next ((s.withSchedule []).pushAll bs).finish := by
  have hnext : (((s.withSchedule [.producer (pbusWord 3#2 0#8)]).pushAll bs)).nextMove =
      .producer (pbusWord 3#2 0#8) := by
    rw [pushAll_withSchedule]
    rfl
  rw [run_add _ 1 _ _ (run_pushes s bs _ h), run_succ 0 _ _ (step_finish hnext), run_zero,
    pushAll_withSchedule, pushAll_withSchedule]
  rfl

/-! ### The obligations -/

/-- Settles O27: the words push the stream and finish, and PUSH of a list is the transform of the
whole list. -/
theorem producerAloneEncodesItsStream : Obligations.ProducerAloneEncodesItsStream := by
  intro s bs hstart hsched
  refine ⟨_, run_pushes_finish s bs hsched, ?_, by rw [finish_phase, pushAll_phase]; rfl,
    by rw [finish_L, pushAll_L]; rfl, fun hraw => ?_, fun hrle => ?_⟩
  · by_cases hrle : s.L.rle = 1#1
    · rw [finish_pushAll_rle (s.withSchedule []) bs hrle, rle_setRle]
    · rw [finish_pushAll_raw (s.withSchedule []) bs hrle, sinkAppendAll_eq]
      exact hstart
  · have hne : s.L.rle ≠ 1#1 := by simp [hraw]
    rw [finish_pushAll_raw (s.withSchedule []) bs hne, sinkAppendAll_eq]
    exact ⟨rfl, rfl⟩
  · have hencode : rleEncodeFrom (s.withSchedule []).rle bs = encodeRle bs :=
      congrArg (rleEncodeFrom · bs) hstart
    rw [finish_pushAll_rle (s.withSchedule []) bs hrle, hencode, sinkAppendAll_eq]
    exact ⟨rfl, rfl⟩

/-- Settles O28: the run is its segments and its tail, and a different byte closes it as FINISH
does. -/
theorem runsAreWrittenInSegments : Obligations.RunsAreWrittenInSegments := by
  intro r v m hm hp h2
  have h1 : 1 ≤ m - 257 * ((m - 1) / 257) := by omega
  have h257 : m - 257 * ((m - 1) / 257) ≤ 257 := by omega
  have hrun := rleEncodeFrom_run hm hp ((m - 1) / 257) _ h1 h257
  rw [show 257 * ((m - 1) / 257) + (m - 257 * ((m - 1) / 257)) = m by omega] at hrun
  refine ⟨h1, h257, hrun, fun b hb => ?_⟩
  have hother := rlePushAll_run_then_other r (m - 1) hb
  rw [Nat.sub_add_cancel (by omega), hrun] at hother
  exact hother

/-- Settles O29: from the START state no run is open to be closed. -/
theorem noRepeatsNoChange : Obligations.NoRepeatsNoChange :=
  fun _ hbs => rleEncodeFrom_of_isChain hbs rleStart nofun

/-- Settles O30: the bound from what the START state owes, which is nothing, and the pairs from their
encoding. -/
theorem encodedLengthIsBounded : Obligations.EncodedLengthIsBounded := by
  refine ⟨fun bs => ?_, fun vs hvs => ?_⟩
  · have hbound : 2 * (encodeRle bs).length ≤ 3 * bs.length := length_rleEncodeFrom_le rleStart bs
    omega
  · have hpairs : encodeRle (vs.flatMap fun v => [v, v]) = vs.flatMap fun v => [v, v, 0#8] :=
      rleEncodeFrom_pairs hvs rleStart nofun
    have hin : (vs.flatMap fun v => [v, v]).length = 2 * vs.length := by simp [Nat.mul_comm]
    have hout : (vs.flatMap fun v => [v, v, 0#8]).length = 3 * vs.length := by simp [Nat.mul_comm]
    simp only [hpairs, hin, hout]
    omega

/-- Settles O31: the decoder starts with nothing remembered, as the encoder does. -/
theorem encodedStreamRoundTrips : Obligations.EncodedStreamRoundTrips :=
  fun bs => (decodeRleFrom_rleEncodeFrom bs).1 rleStart rfl

/-- Settles O23: both words decode and run in either mode. -/
theorem idleAndAppend : Obligations.IdleAndAppend :=
  fun c b _ => ⟨decode_pbusWord c 0#2 b, rfl, decode_pbusWord c 1#2 b, rfl⟩

/-- Settles O24: with the RLE bit 0 the decoder selects the raw forms. -/
theorem rawPushAndFinish : Obligations.RawPushAndFinish := by
  intro c b s hc
  refine ⟨?_, rfl, ?_, rfl⟩ <;> simp [decode_pbusWord, decodePbus, hc]

/-- Settles O25: PUSH writes what the transform gives, one lemma per branch. -/
theorem rlePushFollowsTheStateMachine : Obligations.RlePushFollowsTheStateMachine := by
  intro c b s hc
  have hexec : exec (.pushRle b) s = .next (s.pushRle b) := rfl
  rw [hexec, pushRle_eq]
  refine ⟨by simp [decode_pbusWord, decodePbus, hc], fun hm hp => ?_, fun hm hp => ?_,
    fun hm hp hcount => ?_, fun hm hp hcount => ?_, fun p hm hp hb => ?_⟩
  · rw [rlePush_opens_run hm hp]
    rfl
  · rw [rlePush_of_prev_ne hp, rleFlush_of_literal hm, ← hm]
    rfl
  · rw [rlePush_counts hm hp hcount]
    simp
  · rw [rlePush_at_cap hm hp hcount]
  · have hne : s.prev ≠ some b := by simpa [hp] using hb.symm
    rw [rlePush_of_prev_ne hne, rleFlush_of_run hm]
    rfl

/-- Settles O26: FINISH writes the open run's count and leaves the START state, in which it changes
nothing. -/
theorem rleFinishClosesTheRun : Obligations.RleFinishClosesTheRun := by
  intro c b s hc
  have hexec (t : State) : exec .finishRle t = .next t.finishRle := rfl
  refine ⟨by simp [decode_pbusWord, decodePbus, hc], fun hm => ?_, fun hm => ?_, fun t ht => ?_⟩
  · rw [hexec, finishRle_eq, rleFlush_of_run hm]
    rfl
  · rw [hexec, finishRle_eq, rleFlush_of_literal hm]
    simp
  · obtain rfl : s.finishRle = t := by simpa [hexec] using ht
    rw [hexec, finishRle_of_rleStart rfl]

end Sys2Proof.Machine
end

section
/-! PROOFS. Family 41_session: what START and the three engine steps write, and the run of a whole
session under any interleaving with host transactions. -/

namespace Sys2Proof.Machine

/-! ### The phases of a session (R28), and START (R150) -/

theorem busy_eq_true_iff (p : Phase) : p.busy = true ↔ p = .hdr ∨ p = .body ∨ p = .fin := by
  cases p <;> simp [Phase.busy]

theorem busy_eq_false_iff (p : Phase) : p.busy = false ↔ p = .idle ∨ p = .done ∨ p = .error := by
  cases p <;> simp [Phase.busy]

theorem exec_start (data : Word) (s : State) : exec (.start data) s = .next s.start := rfl

theorem start_of_busy {s : State} (hb : s.phase.busy = true) : s.start = s := if_pos hb

/-- A START on a valid configuration leaves the new session at its header. -/
theorem start_of_valid {s : State} (hb : s.phase.busy = false)
    (hv : validate (latchOf s.cfg s.dim) = 0#4) : s.start = { s.begin with phase := .hdr } := by
  simp [State.start, hb, hv]

/-- A START on an invalid configuration leaves the session ended with its cause. -/
theorem start_of_invalid {s : State} (hb : s.phase.busy = false)
    (hv : validate (latchOf s.cfg s.dim) ≠ 0#4) :
    s.start =
      { s.begin with phase := .error, err := 1#2, cause := validate (latchOf s.cfg s.dim) } := by
  simp [State.start, hb, hv, State.raise]

/-! ### Tag and size header (R153, R154, R155) -/

/-- The FMT of an operation (R96). -/
def fmtOf : SessionOp → BitVec 3
  | .enc1Bit => 0#3
  | .enc4Bit => 1#3
  | .enc8Bit | .enc8BitCol => 2#3
  | .encRgb565 => 3#3
  | .encArgb4444 => 4#3

theorem fmt_of_sessionOp {L : Latched} {op : SessionOp} (h : sessionOp L = some op) :
    L.fmt = fmtOf op := by
  have hwf := (sessionOp_eq_some_iff L op).mp h
  cases op <;> simp_all [SessionOp.instr, Instr.wellFormed, fmtOf]

/-- HH(L) as a number (R30). -/
theorem headerHeight_toNat {L : Latched} {op : SessionOp} (h : sessionOp L = some op) :
    (headerHeight op L).toNat =
      if L.fmt = 0#3 then L.h.toNat / L.rows.toNat else L.h.toNat := by
  rw [fmt_of_sessionOp h]
  cases op <;> simp [headerHeight, fmtOf]

theorem lowHigh_toNat (v : BitVec 16) :
    (lowHigh v).map BitVec.toNat = [v.toNat % 256, v.toNat / 256] := by
  have hv : v.toNat / 256 < 256 := by omega
  simp [lowHigh, BitVec.extractLsb'_toNat, Nat.shiftRight_eq_div_pow, Nat.mod_eq_of_lt hv]

theorem length_tagBytes_le (op : SessionOp) : (tagBytes op).length ≤ 1 := by
  cases op <;> simp [tagBytes]

theorem length_sizeBytes (op : SessionOp) (L : Latched) :
    (sizeBytes op L).length = if L.hdrw = 1#1 then 4 else 2 := by
  unfold sizeBytes
  split <;> rfl

/-! ### The engine steps (R156, R157, R158) -/

theorem exec_stepHdr {s : State} {op : SessionOp} (hop : sessionOp s.L = some op) :
    exec .stepHdr s = .next (s.headerStep op) :=
  (execStepHdr_eq_next s _).mpr ⟨op, hop, rfl⟩

theorem exec_stepUnit {s : State} {op : SessionOp} (hop : sessionOp s.L = some op)
    (hk : s.k.toNat < unitCount op s.L) : exec .stepUnit s = .next (s.unitStep op) :=
  (execStepUnit_eq_next s _).mpr ⟨op, hop, hk, rfl⟩

theorem exec_stepFin (s : State) : exec .stepFin s = .next { s.finish with phase := .done } := rfl

/-- STEP.HDR appends tag and size past the producer and moves the phase on. -/
theorem headerStep_eq_append (s : State) (op : SessionOp) :
    s.headerStep op =
      { s with out := s.out ++ (tagBytes op ++ sizeBytes op s.L)
               port := s.port ++ (tagBytes op ++ sizeBytes op s.L)
               phase := if unitCount op s.L = 0 then .fin else .body } := by
  rw [State.headerStep, sinkAppendAll_eq]

@[simp] theorem headerStep_rle (s : State) (op : SessionOp) : (s.headerStep op).rle = s.rle := by
  rw [headerStep_eq_append]
  rfl

@[simp] theorem headerStep_schedule (s : State) (op : SessionOp) :
    (s.headerStep op).schedule = s.schedule :=
  (headerStep_extends s op).schedule

/-- STEP.UNIT of an answered unit pushes the unit's bytes and moves the cursor on. -/
theorem unitStep_of_colors {s t : State} {op : SessionOp} {cs : List Color}
    (h : s.readAll (unitCoords op s.L.orient s.L s.k.toNat) = .colors cs t) :
    s.unitStep op = (t.pushAll (packUnit op s.L.mono cs)).advanceUnit op := by
  simp only [State.unitStep, h]

/-! ### What PUSH of a list and FINISH leave as it was -/

@[simp] theorem pushAll_k (s : State) (bs : List Byte) : (s.pushAll bs).k = s.k := by
  obtain ⟨w, r, h⟩ := pushAll_cases s bs
  rw [h]

@[simp] theorem pushAll_reads (s : State) (bs : List Byte) : (s.pushAll bs).reads = s.reads := by
  obtain ⟨w, r, h⟩ := pushAll_cases s bs
  rw [h]

@[simp] theorem pushAll_pixels (s : State) (bs : List Byte) :
    (s.pushAll bs).pixels = s.pixels := by
  obtain ⟨w, r, h⟩ := pushAll_cases s bs
  rw [h]

/-- PUSH in raw mode leaves the producer's state. -/
theorem rle_pushAll_raw {s : State} (bs : List Byte) (h : s.L.rle ≠ 1#1) :
    (s.pushAll bs).rle = s.rle := by
  rw [pushAll_raw s bs h, sinkAppendAll_eq]
  rfl

theorem finish_of_raw {s : State} (h : s.L.rle ≠ 1#1) : s.finish = s := if_neg h

theorem finish_of_rle {s : State} (h : s.L.rle = 1#1) : s.finish = s.finishRle := if_pos h

/-- FINISH changes nothing in the START state, in either mode. -/
theorem finish_of_rleStart {s : State} (h : s.rle = rleStart) : s.finish = s := by
  by_cases hr : s.L.rle = 1#1
  · rw [finish_of_rle hr, finishRle_of_rleStart h]
  · exact finish_of_raw hr

@[simp] theorem finish_k (s : State) : s.finish.k = s.k := by
  rcases finish_cases s with ⟨_, h⟩ | ⟨_, h⟩ <;> simp [h, sinkAppendAll_eq]

/-- FINISH leaves the START state, which raw mode never left. -/
theorem rle_finish {s : State} (h : s.L.rle ≠ 1#1 → s.rle = rleStart) :
    s.finish.rle = rleStart := by
  rcases finish_cases s with ⟨_, e⟩ | ⟨hr, e⟩ <;> rw [e]
  · exact rle_setRle _ _
  · exact h hr

/-! ### The frame of an engine step -/

/-- An engine step only extends the sink and the read log. -/
theorem engineStep_extends {i : Instr} {s t : State} (hi : i ∈ [.stepHdr, .stepUnit, .stepFin])
    (h : exec i s = .next t) : s.Extends t := by
  simp only [List.mem_cons, List.not_mem_nil, or_false] at hi
  rcases hi with rfl | rfl | rfl
  · obtain ⟨op, _, rfl⟩ := (execStepHdr_eq_next s t).mp h
    exact headerStep_extends s op
  · obtain ⟨op, _, hk, rfl⟩ := (execStepUnit_eq_next s t).mp h
    exact unitStep_extends s op hk
  · cases h
    exact (finish_extends s).trans (.of_same rfl rfl rfl rfl rfl rfl rfl)

/-- What an engine step does to the fields that are neither configuration nor sink nor read log. -/
theorem engineStep_keeps {i : Instr} {s t : State} (hi : i ∈ [.stepHdr, .stepUnit, .stepFin])
    (h : exec i s = .next t) :
    t.cause = s.cause ∧ t.rdata = s.rdata ∧ t.unitBytes = s.unitBytes ∧
      (t.k = s.k ∨ t.k = s.k + 1#32) ∧
      ((t.err = s.err ∧ t.errxy = s.errxy) ∨ t.phase = .error) := by
  simp only [List.mem_cons, List.not_mem_nil, or_false] at hi
  rcases hi with rfl | rfl | rfl
  · obtain ⟨op, _, rfl⟩ := (execStepHdr_eq_next s t).mp h
    rw [headerStep_eq_append]
    exact ⟨rfl, rfl, rfl, .inl rfl, .inl ⟨rfl, rfl⟩⟩
  · obtain ⟨op, _, _, rfl⟩ := (execStepUnit_eq_next s t).mp h
    obtain ⟨rs, px, ⟨cs, e⟩ | ⟨x, y, e⟩⟩ := unitStep_cases s op <;> rw [e]
    · obtain ⟨w, r, hpush⟩ := pushAll_cases { s with reads := rs, pixels := px }
        (packUnit op s.L.mono cs)
      rw [hpush]
      exact ⟨rfl, rfl, rfl, .inr rfl, .inl ⟨rfl, rfl⟩⟩
    · exact ⟨rfl, rfl, rfl, .inl rfl, .inr rfl⟩
  · cases h
    rcases finish_cases s with ⟨_, e⟩ | ⟨_, e⟩ <;> rw [e]
    · rw [sinkAppendAll_eq]
      exact ⟨rfl, rfl, rfl, .inl rfl, .inl ⟨rfl, rfl⟩⟩
    · exact ⟨rfl, rfl, rfl, .inl rfl, .inl ⟨rfl, rfl⟩⟩

/-! ### The obligations about START, validation and one engine step -/

/-- Settles O10: START by phase and by the outcome of validation. -/
theorem startLatchesValidatesAndBegins : Obligations.StartLatchesValidatesAndBegins := by
  intro c data s
  simp only [exec_start]
  refine ⟨fun hbit => ?_, fun hp => ?_, fun hp => ⟨fun hv => ?_, fun hv => ?_⟩,
    fun hp hcfg hdim => ?_⟩
  · rw [decode_hbusBytes, hbusWord_we, hbusWord_addr, hbusWord_data]
    simp [decodeHbus, hbit]
  · rw [start_of_busy ((busy_eq_true_iff _).mpr hp)]
  · rw [start_of_valid ((busy_eq_false_iff _).mpr hp) hv]
    rfl
  · rw [start_of_invalid ((busy_eq_false_iff _).mpr hp) hv]
    rfl
  · have hv : validate (latchOf s.cfg s.dim) = 0#4 := by
      rw [hcfg, hdim]
      decide
    rw [start_of_valid (by rw [hp]; rfl) hv]
    exact ⟨_, rfl, rfl, by simp [State.statusWord, stateCode], rfl⟩

/-- Settles O11: each cause is the first of the branches before it to hold. -/
theorem validationReportsTheFirstCause : Obligations.ValidationReportsTheFirstCause := by
  intro L c1 c2 c3 c4 c5
  have hmod : L.h % L.rows ≠ 0#16 ↔ L.h.toNat % L.rows.toNat ≠ 0 := by
    rw [ne_eq, ← BitVec.toNat_inj, BitVec.toNat_umod]
    rfl
  have hval : validate L =
      if c1 then 1#4 else if c2 then 2#4 else if c3 then 3#4 else if c4 then 4#4
      else if c5 then 5#4 else 0#4 := by
    simp only [validate, hmod, c1, c2, c3, c4, c5]
  refine ⟨?_, ?_, ?_, ?_, ?_, ?_, fun rows hfmt => ?_, fun w => rfl,
    fun hfmt horient hh hrows => ?_⟩
  iterate 6
    rw [hval]
    split_ifs <;> simp [*]
  · simp [validate, hfmt]
  · rcases horient with horient | horient <;> simp [validate, hfmt, horient, hh, hrows]

/-- Settles O15: the session ends in ERROR, a phase without an engine step. -/
theorem noByteBeforeValidation : Obligations.NoByteBeforeValidation := by
  intro data s hb hv
  rw [exec_start, start_of_invalid hb hv]
  exact ⟨_, rfl, rfl, rfl, rfl, step_of_idle_phase _ rfl rfl⟩

/-- Settles O16: the operation fixes FMT, and each dimension is its one or two bytes. -/
theorem tagAndSizeHeader : Obligations.TagAndSizeHeader := by
  intro L op hop hh
  have hheight : (headerHeight op L).toNat = hh := headerHeight_toNat hop
  have htag : (L.fmt = 0#3 ∨ L.fmt = 1#3 → tagBytes op = []) ∧
      (L.fmt = 2#3 ∨ L.fmt = 3#3 → tagBytes op = [0x00#8]) ∧
      (L.fmt = 4#3 → tagBytes op = [0x01#8]) := by
    rw [fmt_of_sessionOp hop]
    cases op <;> simp [fmtOf, tagBytes]
  obtain ⟨hnone, hzero, hone⟩ := htag
  refine ⟨hnone, hzero, hone, fun hw => ?_, fun hw => ?_⟩
  · simp [sizeBytes, hw, hheight]
  · simp only [sizeBytes, hw, if_true, List.map_append, lowHigh_toNat, hheight]
    rfl

/-- Settles O17: a tag of at most one byte, and a size header of two or four. -/
theorem headerStepAppendsTagThenSize : Obligations.HeaderStepAppendsTagThenSize := by
  intro c s op hop bytes
  have hlen : bytes.length = (tagBytes op).length + if s.L.hdrw = 1#1 then 4 else 2 := by
    rw [← length_sizeBytes op s.L, ← List.length_append]
  have htag := length_tagBytes_le op
  refine ⟨decode_phaseByte c 1#3, ?_, ?_, ?_⟩
  · rw [exec_stepHdr hop, headerStep_eq_append]
  · split at hlen <;> omega
  · split at hlen <;> omega

/-- Settles O18: the answered reads leave the unit's bytes to PUSH, raw or as one run of the
transform. -/
theorem unitStepPushesTheUnit : Obligations.UnitStepPushesTheUnit := by
  intro s op cs px coords bytes hop hk hread
  rw [exec_stepUnit hop hk, unitStep_of_colors hread, ← cursor_succ s.k op s.L hk]
  refine ⟨fun hraw => ?_, fun hrle => ?_⟩
  · rw [pushAll_raw _ _ (by simp [hraw]), sinkAppendAll_eq]
    rfl
  · rw [pushAll_rle { s with reads := s.reads ++ coords, pixels := px } _ hrle, sinkAppendAll_eq]
    rfl

/-- Settles O20: FINISH by mode, and DONE is a phase without an engine step. -/
theorem finStepFlushesOnce : Obligations.FinStepFlushesOnce := by
  intro c s
  simp only [exec_stepFin]
  refine ⟨decode_phaseByte c 3#3, fun hraw => ?_, fun hrle hm => ?_, fun hrle hm => ?_,
    fun t ht => ?_⟩
  · rw [finish_of_raw (by simp [hraw])]
  · rw [finish_of_rle hrle, finishRle_eq, rleFlush_of_literal hm]
    simp
  · rw [finish_of_rle hrle, finishRle_eq, rleFlush_of_run hm]
    rfl
  · cases ht
    exact ⟨rfl, step_of_idle_phase _ rfl rfl⟩

/-- Settles O21: both steps ask for an operation, and STEP.UNIT for a unit. -/
theorem engineStepsStopOutsideASession : Obligations.EngineStepsStopOutsideASession := by
  intro s
  refine ⟨fun hnone => ?_, fun op hop hk => ?_⟩
  · simp [exec, execStepHdr, execStepUnit, hnone]
  · simp [exec, execStepUnit, hop, Nat.not_lt.mpr hk]

/-- Settles O22: the configuration, the sink and the read log by what an engine step extends, the
other fields step by step. -/
theorem engineStepFrame : Obligations.EngineStepFrame := by
  intro i s t hi h
  obtain ⟨hcfg, hdim, hL, hschedule, hout, coords, hreads, _⟩ := engineStep_extends hi h
  obtain ⟨hcause, hrdata, hunit, hk, hreport⟩ := engineStep_keeps hi h
  exact ⟨hcfg, hdim, hL, hcause, hrdata, hunit, hschedule, hout, ⟨coords, hreads⟩, hk, hreport⟩

/-- Settles O53: STEP.HDR goes straight to FIN, and FINISH has nothing to write. -/
theorem emptyImageIsItsHeader : Obligations.EmptyImageIsItsHeader := by
  intro s op hp hnil hout hrle hop hempty
  have hcount : unitCount op s.L = 0 := by
    rcases hempty with h0 | h0 <;> cases op <;> simp [unitCount, ceilDiv, h0]
  have hhdr : step s = .next (s.headerStep op) := by
    rw [(step_of_busy_phase s hnil).1 hp, exec_stepHdr hop]
  have hfin : step (s.headerStep op) = .next { s.headerStep op with phase := .done } := by
    rw [(step_of_busy_phase _ (by rw [headerStep_schedule, hnil])).2.2 (if_pos hcount), exec_stepFin,
      finish_of_rleStart (by rw [headerStep_rle, hrle])]
  refine ⟨hcount, _, by rw [run_succ 1 _ _ hhdr, run_succ 0 _ _ hfin, run_zero], rfl, ?_, ?_⟩
  · simp [headerStep_eq_append, hout]
  · simp [headerStep_eq_append]

/-! ### What the rest of a session depends on -/

/-- The fields that a unit function and its reads depend on are the same in both states. -/
structure State.SameUnits (s t : State) : Prop where
  L : s.L = t.L
  k : s.k = t.k
  reads : s.reads = t.reads
  pixels : s.pixels = t.pixels

/-- Answered reads are answered the same in a state with the same read log and answers laid down. -/
theorem readAll_congr {s t u : State} {coords : List Coord} {cs : List Color}
    (hreads : s.reads = t.reads) (hpixels : s.pixels = t.pixels)
    (h : s.readAll coords = .colors cs u) :
    t.readAll coords = .colors cs { t with reads := u.reads, pixels := u.pixels } := by
  induction coords generalizing s t cs with
  | nil =>
    cases h
    rw [hreads, hpixels]
    rfl
  | cons c coords ih =>
    obtain ⟨x, y⟩ := c
    have hanswer : s.sourceAnswer x y = t.sourceAnswer x y := by
      simp only [State.sourceAnswer, hreads, hpixels]
    simp only [State.readAll, hanswer] at h ⊢
    cases ha : t.sourceAnswer x y with
    | fail => simp [ha] at h
    | ok c =>
      simp only [ha] at h ⊢
      cases hr : (s.sendRead x y).readAll coords with
      | unavailable => simp [hr] at h
      | colors ds v =>
        simp only [hr, ReadResult.colors.injEq] at h
        obtain ⟨rfl, rfl⟩ := h
        rw [ih (t := t.sendRead x y) (by simp [hreads]) (by simp [hpixels]) hr]
        rfl

/-- The bytes of the next n + 1 units are those of the cursor's unit and of the n after it. -/
theorem bodyFrom_succ_eq_some {op : SessionOp} {n : Nat} {s u : State} {body : List Byte} :
    bodyFrom op (n + 1) s = some (body, u) ↔
      ∃ cs t rest, s.readAll (unitCoords op s.L.orient s.L s.k.toNat) = .colors cs t ∧
        bodyFrom op n { t with k := t.k + 1#32 } = some (rest, u) ∧
        packUnit op s.L.mono cs ++ rest = body := by
  rw [bodyFrom]
  cases s.readAll (unitCoords op s.L.orient s.L s.k.toNat) with
  | unavailable => simp
  | colors cs t => simp [Prod.ext_iff]

theorem bodyFrom_congr {op : SessionOp} {n : Nat} {s t u : State} {body : List Byte}
    (h : s.SameUnits t) (hb : bodyFrom op n s = some (body, u)) :
    ∃ v, bodyFrom op n t = some (body, v) := by
  induction n generalizing s t body with
  | zero =>
    cases hb
    exact ⟨t, rfl⟩
  | succ n ih =>
    obtain ⟨cs, r, rest, hr, hrest, hbody⟩ := bodyFrom_succ_eq_some.mp hb
    have hr' := readAll_congr h.reads h.pixels hr
    obtain ⟨_, hreq⟩ := readAll_colors _ _ _ _ hr
    rw [h.L, h.k] at hr'
    have hsame : State.SameUnits { r with k := r.k + 1#32 }
        { t with reads := r.reads, pixels := r.pixels, k := t.k + 1#32 } :=
      ⟨by rw [hreq]; exact h.L, by rw [hreq, ← h.k], rfl, rfl⟩
    obtain ⟨v, hv⟩ := ih hsame hrest
    exact ⟨v, bodyFrom_succ_eq_some.mpr ⟨cs, _, rest, hr', hv, by rw [← h.L, hbody]⟩⟩

/-- `out` after PUSH of each byte and FINISH, as the selected producer writes it. -/
def State.written (s : State) (bs : List Byte) : List Byte :=
  s.out ++ if s.L.rle = 1#1 then rleEncodeFrom s.rle bs else bs

theorem finish_pushAll_out (s : State) (bs : List Byte) :
    (s.pushAll bs).finish.out = s.written bs := by
  by_cases hr : s.L.rle = 1#1
  · rw [finish_pushAll_rle s bs hr, sinkAppendAll_eq, State.written, if_pos hr]
    rfl
  · rw [finish_pushAll_raw s bs hr, sinkAppendAll_eq, State.written, if_neg hr]

theorem written_nil (s : State) : s.written [] = s.finish.out := (finish_pushAll_out s []).symm

/-- Bytes pushed now are written before those pushed later. -/
theorem written_pushAll (s : State) (xs ys : List Byte) :
    (s.pushAll xs).written ys = s.written (xs ++ ys) := by
  rw [← finish_pushAll_out, ← finish_pushAll_out, State.pushAll, State.pushAll, State.pushAll,
    List.foldl_append]

/-! ### How far a session has come -/

/-- The header is written, the cursor's unit or else the flush is next, and the units left, when all
their reads are answered, complete `out` to the artifact. -/
structure State.PastHeader (op : SessionOp) (artifact : List Byte) (s : State) : Prop where
  cursor : s.k.toNat ≤ unitCount op s.L
  phase : s.phase = if s.k.toNat = unitCount op s.L then .fin else .body
  rawIsStart : s.L.rle ≠ 1#1 → s.rle = rleStart
  rest : ∃ bytes u, bodyFrom op (unitCount op s.L - s.k.toNat) s = some (bytes, u) ∧
    s.written bytes = artifact

/-- The session is over, and its artifact stands in `out`. -/
structure State.Finished (op : SessionOp) (artifact : List Byte) (s : State) : Prop where
  cursor : s.k.toNat = unitCount op s.L
  phase : s.phase = .done
  rle : s.rle = rleStart
  out : s.out = artifact

/-- The session is on its way to the artifact: before its header, past it, or finished. -/
inductive State.Heading (op : SessionOp) (artifact : List Byte) (s : State) : Prop where
  | atHeader (phase : s.phase = .hdr) (cursor : s.k = 0#32)
      (next : (s.headerStep op).PastHeader op artifact)
  | pastHeader (h : s.PastHeader op artifact)
  | finished (h : s.Finished op artifact)

/-- The state with other values in what HOST transactions of a running session write, and with other
moves still to come. -/
def State.withHostSide (s : State) (cfg dim : Word) (rdata : Option Word) (ms : List Move) : State :=
  { s with cfg := cfg, dim := dim, rdata := rdata, schedule := ms }

section

variable {op : SessionOp} {artifact : List Byte} {s : State}

theorem headerStep_withHostSide (s : State) (op : SessionOp) (cfg dim : Word) (rdata : Option Word)
    (ms : List Move) :
    (s.withHostSide cfg dim rdata ms).headerStep op =
      (s.headerStep op).withHostSide cfg dim rdata ms := by
  rw [headerStep_eq_append, headerStep_eq_append]
  rfl

theorem State.PastHeader.withHostSide (h : s.PastHeader op artifact) (cfg dim : Word)
    (rdata : Option Word) (ms : List Move) :
    (s.withHostSide cfg dim rdata ms).PastHeader op artifact := by
  obtain ⟨bytes, u, hbody, hwritten⟩ := h.rest
  have hsame : s.SameUnits (s.withHostSide cfg dim rdata ms) := ⟨rfl, rfl, rfl, rfl⟩
  obtain ⟨v, hv⟩ := bodyFrom_congr hsame hbody
  exact ⟨h.cursor, h.phase, h.rawIsStart, bytes, v, hv, hwritten⟩

theorem State.Heading.withHostSide (h : s.Heading op artifact) (cfg dim : Word)
    (rdata : Option Word) (ms : List Move) :
    (s.withHostSide cfg dim rdata ms).Heading op artifact := by
  cases h with
  | atHeader phase cursor next =>
    refine .atHeader phase cursor ?_
    rw [headerStep_withHostSide]
    exact next.withHostSide cfg dim rdata ms
  | pastHeader h => exact .pastHeader (h.withHostSide cfg dim rdata ms)
  | finished h => exact .finished ⟨h.cursor, h.phase, h.rle, h.out⟩

/-- While a unit is left, STEP.UNIT writes it and moves the cursor on. -/
theorem State.PastHeader.unitStep (h : s.PastHeader op artifact)
    (hk : s.k.toNat < unitCount op s.L) :
    (s.unitStep op).PastHeader op artifact ∧ (s.unitStep op).L = s.L ∧
      (s.unitStep op).k = s.k + 1#32 := by
  obtain ⟨bytes, u, hbody, hwritten⟩ := h.rest
  have hk1 := cursor_succ s.k op s.L hk
  rw [show unitCount op s.L - s.k.toNat = unitCount op s.L - (s.k + 1#32).toNat + 1 by omega] at hbody
  obtain ⟨cs, t, rest, hread, hrest, rfl⟩ := bodyFrom_succ_eq_some.mp hbody
  obtain ⟨_, ht⟩ := readAll_colors _ _ _ _ hread
  rw [unitStep_of_colors hread]
  -- the reads change no other field, and PUSH and the cursor's move no more than their own
  have hL : t.L = s.L := by rw [ht]
  have hkt : t.k = s.k := by rw [ht]
  have hrle : t.rle = s.rle := by rw [ht]; rfl
  have hphase : t.phase = .body := by rw [ht]; exact h.phase.trans (if_neg hk.ne)
  have hwrite : t.written = s.written := by rw [ht]; rfl
  have hsame : State.SameUnits { t with k := t.k + 1#32 }
      ((t.pushAll (packUnit op s.L.mono cs)).advanceUnit op) := ⟨by simp, by simp, by simp, by simp⟩
  obtain ⟨v, hv⟩ := bodyFrom_congr hsame hrest
  refine ⟨⟨?_, ?_, fun hraw => ?_, rest, v, ?_, ?_⟩, by simp [hL], by simp [hkt]⟩
  · simp [hL, hkt]
    omega
  · simp [hL, hkt, hphase]
  · have hraw' : t.L.rle ≠ 1#1 := by simpa using hraw
    exact (rle_pushAll_raw _ hraw').trans (hrle.trans (h.rawIsStart (hL ▸ hraw')))
  · simpa [hL, hkt] using hv
  · calc ((t.pushAll (packUnit op s.L.mono cs)).advanceUnit op).written rest
        = (t.pushAll (packUnit op s.L.mono cs)).written rest := rfl
      _ = s.written (packUnit op s.L.mono cs ++ rest) := by rw [written_pushAll, hwrite]
      _ = artifact := hwritten

/-- When no unit is left, STEP.FIN completes the artifact. -/
theorem State.PastHeader.finStep (h : s.PastHeader op artifact)
    (hk : s.k.toNat = unitCount op s.L) :
    ({ s.finish with phase := .done } : State).Finished op artifact := by
  obtain ⟨bytes, u, hbody, hwritten⟩ := h.rest
  rw [hk, Nat.sub_self] at hbody
  cases hbody
  exact ⟨by simpa using hk, rfl, rle_finish h.rawIsStart, (written_nil s).symm.trans hwritten⟩

theorem stepsLeft_of_hdr (h : s.phase = .hdr) : stepsLeft op s = unitCount op s.L + 2 := by
  simp [stepsLeft, h]

theorem stepsLeft_of_done (h : s.phase = .done) : stepsLeft op s = 0 := by
  simp [stepsLeft, h]

theorem State.PastHeader.stepsLeft_eq (h : s.PastHeader op artifact) :
    stepsLeft op s = unitCount op s.L - s.k.toNat + 1 := by
  rw [stepsLeft, h.phase]
  split_ifs with hk
  · simp [hk]
  · rfl

/-- The instruction of a phase that has an engine step (R100). -/
def engineInstr : Phase → Option Instr
  | .hdr => some .stepHdr
  | .body => some .stepUnit
  | .fin => some .stepFin
  | .idle | .done | .error => none

theorem engineInstr_mem {p : Phase} {i : Instr} (h : engineInstr p = some i) :
    i ∈ [.stepHdr, .stepUnit, .stepFin] := by
  cases p <;> cases h <;> simp

/-- The ENGINE's turn runs the instruction of its phase. -/
theorem step_engine {i : Instr} (hm : s.nextMove = .engine) (hi : engineInstr s.phase = some i) :
    step s = exec i s.popMove := by
  refine step_of_decode s i (by simp [hm]) ?_
  rw [hm, decode_engine]
  revert hi
  cases s.phase <;> simp [engineInstr]

/-- A session on its way, with a step left, comes one engine step nearer. -/
theorem State.Heading.engineStep (h : s.Heading op artifact) (hop : sessionOp s.L = some op)
    (hb : s.phase ≠ .done) :
    ∃ i t, engineInstr s.phase = some i ∧ exec i s = .next t ∧ t.Heading op artifact ∧
      stepsLeft op s = stepsLeft op t + 1 := by
  cases h with
  | atHeader phase cursor next =>
    refine ⟨_, _, by rw [phase]; rfl, exec_stepHdr hop, .pastHeader next, ?_⟩
    rw [stepsLeft_of_hdr phase, next.stepsLeft_eq, headerStep_eq_append]
    simp [cursor]
  | pastHeader h =>
    by_cases hk : s.k.toNat = unitCount op s.L
    · have hdone := h.finStep hk
      refine ⟨_, _, by rw [h.phase, if_pos hk]; rfl, exec_stepFin s, .finished hdone, ?_⟩
      rw [h.stepsLeft_eq, stepsLeft_of_done hdone.phase, hk, Nat.sub_self]
    · have hlt : s.k.toNat < unitCount op s.L := by have := h.cursor; omega
      obtain ⟨hnext, hL, hcursor⟩ := h.unitStep hlt
      refine ⟨_, _, by rw [h.phase, if_neg hk]; rfl, exec_stepUnit hop hlt, .pastHeader hnext, ?_⟩
      rw [h.stepsLeft_eq, hnext.stepsLeft_eq, hL, hcursor, cursor_succ s.k op s.L hlt]
      omega
  | finished h => exact absurd h.phase hb

end

/-! ### The moves of the HOST and the ENGINE in a running session -/

/-- A host transaction of a running session writes CFG, DIM or RDATA at most: its START is ignored
(R150). -/
theorem step_host_of_busy {s : State} {w : BitVec 41} (hm : s.nextMove = .host w)
    (hb : s.phase.busy = true) :
    ∃ cfg dim rdata, step s = .next (s.withHostSide cfg dim rdata s.schedule.tail) := by
  obtain ⟨t, ht, hcases⟩ := exec_decodeHbus_cases (w.extractLsb' 40 1) (w.extractLsb' 32 8)
    (w.extractLsb' 0 32) s.popMove
  rw [step_host s w hm, ht]
  rcases hcases with rfl | ⟨v, rfl⟩ | ⟨_, rfl⟩ | ⟨_, rfl⟩ | ⟨_, rfl⟩
  · exact ⟨_, _, _, rfl⟩
  · exact ⟨_, _, _, rfl⟩
  · exact ⟨_, _, _, rfl⟩
  · exact ⟨_, _, _, rfl⟩
  · exact ⟨_, _, _, congrArg _ (start_of_busy (s := s.popMove) hb)⟩

/-- The session that s₀ began, in a state s of it: the configuration and the error report are those of
s₀, only HOST and ENGINE are still to move, and the artifact is being written. -/
structure State.InSession (s₀ : State) (op : SessionOp) (artifact : List Byte) (s : State) :
    Prop where
  L : s.L = s₀.L
  err : s.err = s₀.err
  cause : s.cause = s₀.cause
  errxy : s.errxy = s₀.errxy
  operation : sessionOp s.L = some op
  moves : ∀ m ∈ s.schedule, m.isHost = true ∨ m = .engine
  heading : s.Heading op artifact

section

variable {s₀ s : State} {op : SessionOp} {artifact : List Byte}

theorem State.InSession.nextMove (h : InSession s₀ op artifact s) :
    s.nextMove.isHost = true ∨ s.nextMove = .engine := by
  have hmoves := h.moves
  unfold State.nextMove
  split
  next => exact .inr rfl
  next m ms hm => exact hmoves m (by simp [hm])

theorem State.Heading.phase_eq_done_or_busy (h : s.Heading op artifact) :
    s.phase = .done ∨ s.phase.busy = true := by
  cases h with
  | atHeader phase _ _ => exact .inr (by rw [phase]; rfl)
  | pastHeader h => exact .inr (by rw [h.phase]; split <;> rfl)
  | finished h => exact .inl h.phase

theorem State.Heading.phase_ne_error (h : s.Heading op artifact) : s.phase ≠ .error := by
  rcases h.phase_eq_done_or_busy with hp | hp <;> intro he <;> simp [he, Phase.busy] at hp

theorem State.Heading.finished_of_done (h : s.Heading op artifact) (hp : s.phase = .done) :
    s.Finished op artifact := by
  cases h with
  | atHeader phase _ _ => simp [hp] at phase
  | pastHeader h => exact absurd (hp.symm.trans h.phase) (by split <;> simp)
  | finished h => exact h

/-- One move of a session: a host transaction leaves its steps as they are, the ENGINE's turn takes
one of them. -/
theorem State.InSession.step (h : InSession s₀ op artifact s) (hp : s.phase ≠ .done) :
    ∃ t, Machine.step s = .next t ∧ InSession s₀ op artifact t ∧
      stepsLeft op s + (if s.nextMove.isHost then 1 else 0) = stepsLeft op t + 1 := by
  have hmoves : ∀ m ∈ s.schedule.tail, m.isHost = true ∨ m = .engine :=
    fun m hm => h.moves m (List.mem_of_mem_tail hm)
  cases hm : s.nextMove with
  | host w =>
    have hb := h.heading.phase_eq_done_or_busy.resolve_left hp
    obtain ⟨cfg, dim, rdata, hstep⟩ := step_host_of_busy hm hb
    exact ⟨_, hstep, ⟨h.L, h.err, h.cause, h.errxy, h.operation, hmoves,
      h.heading.withHostSide cfg dim rdata _⟩, rfl⟩
  | engine =>
    obtain ⟨i, t, hi, ht, hheading, hleft⟩ :=
      (h.heading.withHostSide s.cfg s.dim s.rdata s.schedule.tail).engineStep h.operation hp
    obtain ⟨_, _, hL, hcause, _, _, hschedule, _, _, _, hreport⟩ :=
      engineStepFrame i _ t (engineInstr_mem hi) ht
    obtain ⟨herr, herrxy⟩ := hreport.resolve_right hheading.phase_ne_error
    exact ⟨t, (step_engine hm hi).trans ht, ⟨hL.trans h.L, herr.trans h.err, hcause.trans h.cause,
      herrxy.trans h.errxy, hL ▸ h.operation, hschedule ▸ hmoves, hheading⟩, hleft⟩
  | reset | producer _ | operation => simpa [hm, Move.isHost] using h.nextMove

/-- The host transactions among the first n + 1 moves: the next move, and those among the n after
it. -/
theorem countP_take_succ (s : State) (n : Nat) :
    (s.schedule.take (n + 1)).countP Move.isHost =
      (s.schedule.tail.take n).countP Move.isHost + if s.nextMove.isHost then 1 else 0 := by
  unfold State.nextMove
  cases s.schedule with
  | nil => simp [Move.isHost]
  | cons m ms => simp [List.countP_cons]

/-- A host transaction is a move laid down, and it leaves the schedule. -/
theorem length_tail_le (s : State) :
    s.schedule.tail.length + (if s.nextMove.isHost then 1 else 0) ≤ s.schedule.length := by
  unfold State.nextMove
  cases s.schedule with
  | nil => simp [Move.isHost]
  | cons m ms => simp only [List.tail_cons, List.length_cons]; split <;> omega

/-- A session runs to its end in its remaining steps and the host transactions among them. -/
theorem State.InSession.run {s : State} (h : InSession s₀ op artifact s) :
    ∃ n t, n = stepsLeft op s + (s.schedule.take n).countP Move.isHost ∧
      Host.Core.run Sys2Proof.core n s = .next t ∧ InSession s₀ op artifact t ∧
      t.phase = .done := by
  by_cases hp : s.phase = .done
  · exact ⟨0, s, by rw [stepsLeft_of_done hp]; rfl, run_zero s, h, hp⟩
  · obtain ⟨t, hstep, ht, hleft⟩ := h.step hp
    have hschedule : t.schedule = s.schedule.tail := everyStepTakesOneMove s t hstep
    have hsmaller : stepsLeft op t + t.schedule.length < stepsLeft op s + s.schedule.length := by
      have := length_tail_le s
      rw [hschedule]
      omega
    obtain ⟨n, u, hn, hrun, hu, hdone⟩ := ht.run
    refine ⟨n + 1, u, ?_, (run_succ n s t hstep).trans hrun, hu, hdone⟩
    rw [hschedule] at hn
    rw [countP_take_succ]
    omega
termination_by stepsLeft op s + s.schedule.length

end

/-! ### The obligation about a whole session -/

/-- The state START leaves is on its way to tag, size and body. -/
theorem heading_of_start {s u : State} {op : SessionOp} {body : List Byte} (hp : s.phase = .hdr)
    (hout : s.out = []) (hk : s.k = 0#32) (hrle : s.rle = rleStart)
    (hbody : bodyFrom op (unitCount op s.L) s = some (body, u)) :
    s.Heading op (tagBytes op ++ sizeBytes op s.L ++ producedBody s.L body) := by
  refine .atHeader hp hk ?_
  have hsame : s.SameUnits (s.headerStep op) := by
    rw [headerStep_eq_append]
    exact ⟨rfl, rfl, rfl, rfl⟩
  obtain ⟨v, hv⟩ := bodyFrom_congr hsame hbody
  have hcursor : (s.headerStep op).k.toNat = 0 := by rw [← hsame.k, hk]; rfl
  refine ⟨by omega, ?_, fun _ => by rw [headerStep_rle, hrle], body, v, ?_, ?_⟩
  · rw [hcursor, headerStep_eq_append]
    simp only [eq_comm]
  · rw [hcursor, ← hsame.L, Nat.sub_zero, hv]
  · rw [State.written, headerStep_rle, hrle, headerStep_eq_append, hout]
    rfl

/-- Settles O52: the state START leaves is on its way to the artifact, and every move keeps the session
on its way until it is finished. -/
theorem sessionWritesHeaderThenBody : Obligations.SessionWritesHeaderThenBody := by
  intro s op body u hp hout hk hrle hmoves hop hbody
  have hstart : s.InSession op (tagBytes op ++ sizeBytes op s.L ++ producedBody s.L body) s :=
    ⟨rfl, rfl, rfl, rfl, hop, hmoves, heading_of_start hp hout hk hrle hbody⟩
  obtain ⟨n, t, hn, hrun, ht, hdone⟩ := hstart.run
  rw [stepsLeft_of_hdr hp] at hn
  have hend := ht.heading.finished_of_done hdone
  exact ⟨n, t, hn, hrun, hdone, (if_pos hdone).trans (congrArg some hend.out), ht.err, ht.cause,
    ht.errxy, by rw [hend.cursor, ht.L], hend.rle⟩

end Sys2Proof.Machine
end

section
/-! PROOFS. Family 42_pixel_formats: the orientation mapping and the traversal, the packed lanes, and
the six unit functions. -/

namespace Sys2Proof.Machine

/-! ### The orientation mapping (R181) -/

/-- Under 180° both axes are mirrored, under any other orientation nothing moves. -/
theorem phys_half_turn (L : Latched) (x y : Nat) :
    phys 1#2 L x y = (L.w.toNat - 1 - x, L.h.toNat - 1 - y) := if_pos rfl

theorem phys_of_ne {orient : BitVec 2} (h : orient ≠ 1#2) (L : Latched) (x y : Nat) :
    phys orient L x y = (x, y) := if_neg h

/-- The mapping undoes itself on the canvas. -/
theorem phys_phys (orient : BitVec 2) {L : Latched} {x y : Nat} (hx : x < L.w.toNat)
    (hy : y < L.h.toNat) :
    phys orient L (phys orient L x y).1 (phys orient L x y).2 = (x, y) := by
  by_cases ho : orient = 1#2
  · subst ho
    simp only [phys_half_turn, Prod.mk.injEq]
    omega
  · simp only [phys_of_ne ho]

/-- The port carries one pixel's physical coordinate exactly when the mapping names the pixel. -/
theorem coordOf_phys_eq_iff (orient : BitVec 2) {L : Latched} {q : Nat × Nat} {x y : Half}
    (hq₁ : q.1 < L.w.toNat) (hq₂ : q.2 < L.h.toNat) (hx : x.toNat < L.w.toNat)
    (hy : y.toNat < L.h.toNat) :
    coordOf (phys orient L q.1 q.2) = (x, y) ↔ q = phys orient L x.toNat y.toNat := by
  obtain ⟨hp₁, hp₂⟩ := phys_lt orient L q.1 q.2 hq₁ hq₂
  have hport : coordOf (phys orient L q.1 q.2) = (x, y) ↔
      phys orient L q.1 q.2 = (x.toNat, y.toNat) := by
    rw [coordOf, Prod.mk.injEq, Prod.ext_iff, ← BitVec.toNat_inj, ← BitVec.toNat_inj,
      BitVec.toNat_ofNat, BitVec.toNat_ofNat, Nat.mod_eq_of_lt (hp₁.trans L.w.isLt),
      Nat.mod_eq_of_lt (hp₂.trans L.h.isLt)]
  rw [hport]
  constructor
  · intro h
    have hback := phys_phys orient hq₁ hq₂
    rw [h] at hback
    exact hback.symm
  · rintro rfl
    exact phys_phys orient hx hy

/-! ### The unit that reads a pixel (R182, R183) -/

/-- The rows of a band that lie in the canvas are its first ones. -/
theorem filter_range_add_lt (n y₀ h : Nat) :
    (List.range n).filter (fun z => y₀ + z < h) = List.range (min n (h - y₀)) := by
  induction n with
  | zero => simp
  | succ n ih =>
    rw [List.range_succ, List.filter_append, ih]
    by_cases hn : y₀ + n < h
    · rw [show min n (h - y₀) = n by omega, show min (n + 1) (h - y₀) = n + 1 by omega,
        List.range_succ]
      simp [hn]
    · rw [show min (n + 1) (h - y₀) = min n (h - y₀) by omega]
      simp [hn]

theorem unitLogical_enc1Bit (L : Latched) (k : Nat) :
    unitLogical .enc1Bit L k =
      (List.range (min 8 (L.h.toNat - 8 * (k / L.w.toNat)))).map fun z =>
        (k % L.w.toNat, 8 * (k / L.w.toNat) + z) :=
  congrArg (List.map _) (filter_range_add_lt _ _ _)

/-- The unit whose anchor covers a logical coordinate: the inverse of R183's anchors. -/
def unitAt (op : SessionOp) (L : Latched) (q : Nat × Nat) : Nat :=
  match op with
  | .enc1Bit => q.1 + L.w.toNat * (q.2 / 8)
  | .enc4Bit => q.1 + L.w.toNat * (q.2 / 2)
  | .enc8Bit | .encRgb565 | .encArgb4444 => q.1 + L.w.toNat * q.2
  | .enc8BitCol => q.2 + L.h.toNat * q.1

/-- The units that read a pixel of the canvas: the one at its place, and no other. -/
theorem mem_unitLogical_iff (op : SessionOp) (L : Latched) (k : Nat) {q : Nat × Nat}
    (hx : q.1 < L.w.toNat) (hy : q.2 < L.h.toNat) :
    q ∈ unitLogical op L k ↔ unitAt op L q = k := by
  have row (d : Nat) : q.1 + L.w.toNat * d = k ↔ k / L.w.toNat = d ∧ k % L.w.toNat = q.1 := by
    rw [Nat.div_mod_unique (Nat.zero_lt_of_lt hx), and_iff_left hx]
  have col (d : Nat) : q.2 + L.h.toNat * d = k ↔ k / L.h.toNat = d ∧ k % L.h.toNat = q.2 := by
    rw [Nat.div_mod_unique (Nat.zero_lt_of_lt hy), and_iff_left hy]
  obtain ⟨x, y⟩ := q
  dsimp only at *
  cases op with
  | enc1Bit =>
    rw [unitAt, row, unitLogical_enc1Bit, List.mem_map]
    constructor
    · rintro ⟨z, hz, h⟩
      rw [List.mem_range] at hz
      rw [Prod.mk.injEq] at h
      omega
    · rintro ⟨hd, hm⟩
      refine ⟨y % 8, List.mem_range.mpr (by omega), ?_⟩
      rw [Prod.mk.injEq]
      omega
  | enc4Bit =>
    rw [unitAt, row]
    by_cases hbot : 2 * (k / L.w.toNat) + 1 < L.h.toNat <;>
      simp only [unitLogical, hbot, if_true, if_false, List.mem_cons, List.not_mem_nil,
        Prod.mk.injEq, or_false] <;> omega
  | enc8Bit | encRgb565 | encArgb4444 =>
    rw [unitAt, row, unitLogical, List.mem_singleton, Prod.mk.injEq]
    omega
  | enc8BitCol =>
    rw [unitAt, col, unitLogical, List.mem_singleton, Prod.mk.injEq]
    omega

theorem unitAt_lt (op : SessionOp) (L : Latched) {q : Nat × Nat} (hx : q.1 < L.w.toNat)
    (hy : q.2 < L.h.toNat) : unitAt op L q < unitCount op L := by
  have row {r n d c : Nat} (hr : r < n) (hd : d < c) : r + n * d < n * c :=
    calc r + n * d < n * (d + 1) := by rw [Nat.mul_succ]; omega
      _ ≤ n * c := Nat.mul_le_mul_left n hd
  cases op with
  | enc1Bit => exact row hx (by rw [ceilDiv]; omega)
  | enc4Bit => exact row hx (by rw [ceilDiv]; omega)
  | enc8Bit | encRgb565 | encArgb4444 => exact row hx hy
  | enc8BitCol => exact (row hy hx).trans_eq (Nat.mul_comm _ _)

/-- No unit reads a logical coordinate twice. -/
theorem unitLogical_nodup (op : SessionOp) (L : Latched) (k : Nat) : (unitLogical op L k).Nodup := by
  cases op with
  | enc1Bit =>
    rw [unitLogical_enc1Bit]
    exact List.nodup_range.map fun a b h => by simpa using h
  | enc4Bit => by_cases hbot : 2 * (k / L.w.toNat) + 1 < L.h.toNat <;> simp [unitLogical, hbot]
  | enc8Bit | encRgb565 | encArgb4444 | enc8BitCol => exact List.nodup_singleton _

section

variable (op : SessionOp) (orient : BitVec 2) {L : Latched} {k : Nat}

/-- A unit of the image reads a pixel exactly when it is the unit of the pixel's logical place. -/
theorem mem_unitCoords_iff (hk : k < unitCount op L) {x y : Half} (hx : x.toNat < L.w.toNat)
    (hy : y.toNat < L.h.toNat) :
    (x, y) ∈ unitCoords op orient L k ↔
      unitAt op L (phys (readOrient op orient) L x.toNat y.toNat) = k := by
  obtain ⟨hp₁, hp₂⟩ := phys_lt (readOrient op orient) L _ _ hx hy
  rw [← mem_unitLogical_iff op L k hp₁ hp₂, unitCoords, List.mem_map]
  constructor
  · rintro ⟨q, hq, h⟩
    obtain ⟨hq₁, hq₂⟩ := unitLogical_lt op L k hk q hq
    rwa [← (coordOf_phys_eq_iff _ hq₁ hq₂ hx hy).mp h]
  · intro h
    exact ⟨_, h, (coordOf_phys_eq_iff _ hp₁ hp₂ hx hy).mpr rfl⟩

/-- No unit of the image reads a pixel twice. -/
theorem unitCoords_nodup (hk : k < unitCount op L) : (unitCoords op orient L k).Nodup := by
  refine (unitLogical_nodup op L k).map_on fun p hp q hq h => ?_
  obtain ⟨hp₁, hp₂⟩ := unitLogical_lt op L k hk p hp
  obtain ⟨hq₁, hq₂⟩ := unitLogical_lt op L k hk q hq
  obtain ⟨hx, hy⟩ := coordOf_inCanvas L (phys (readOrient op orient) L q.1 q.2)
    (phys_lt _ L _ _ hq₁ hq₂).1 (phys_lt _ L _ _ hq₁ hq₂).2
  rw [(coordOf_phys_eq_iff _ hp₁ hp₂ hx hy).mp h, ← (coordOf_phys_eq_iff _ hq₁ hq₂ hx hy).mp rfl]

end

/-! ### The obligations about the traversal -/

/-- Settles O32: each orientation's mapping, its range and its inverse. -/
theorem orientationMirrorsBothAxes : Obligations.OrientationMirrorsBothAxes := by
  intro L x y hx hy
  obtain ⟨hx', hy'⟩ := phys_lt 1#2 L x y hx hy
  exact ⟨phys_of_ne (by decide) L x y, phys_half_turn L x y, phys_of_ne (by decide) L x y, hx', hy',
    phys_phys 1#2 hx hy⟩

/-- Settles O33: the unit is the one at the pixel's logical place. -/
theorem everyPixelIsReadOnce : Obligations.EveryPixelIsReadOnce := by
  intro op orient L x y hx hy
  obtain ⟨hp₁, hp₂⟩ := phys_lt (readOrient op orient) L _ _ hx hy
  have hk := unitAt_lt op L hp₁ hp₂
  refine ⟨_, hk, List.count_eq_one_of_mem (unitCoords_nodup op orient hk)
    ((mem_unitCoords_iff op orient hk hx hy).mpr rfl), fun j hj hne hmem => ?_⟩
  exact hne ((mem_unitCoords_iff op orient hj hx hy).mp hmem).symm

/-! ### The packed lanes (R184 to R192, R196) -/

theorem getLsbD_one_shiftLeft (i j : Nat) (hj : j < 8) :
    (1#8 <<< i).getLsbD j = decide (i = j) := by
  rw [← BitVec.twoPow_eq, BitVec.getLsbD_twoPow]
  by_cases h : i = j
  · simp [h, hj]
  · simp [h]

/-- Bit z of a band's byte is the "on" of the colour read z - n places after the first. -/
theorem packBand_getLsbD (mono : BitVec 1) (cs : List Color) (n z : Nat) (hz : z < 8) :
    (packBand mono n cs).getLsbD z = (decide (n ≤ z) && (cs[z - n]?).any (pixelOn mono)) := by
  induction cs generalizing n with
  | nil => simp [packBand]
  | cons c cs ih =>
    have hbit : (if pixelOn mono c then 1#8 <<< n else 0#8).getLsbD z =
        (decide (n = z) && pixelOn mono c) := by
      cases pixelOn mono c
      · simp
      · simpa using getLsbD_one_shiftLeft n z hz
    rw [packBand, BitVec.getLsbD_or, ih, hbit]
    rcases lt_trichotomy z n with h | rfl | h
    · simp [h.ne', Nat.not_le.mpr h, Nat.not_le.mpr (h.trans n.lt_succ_self)]
    · simp
    · rw [show z - n = z - (n + 1) + 1 by omega]
      simp [h.ne, h.le, Nat.succ_le_of_lt h]

/-- R187's step on one bit: subtract 2 ^ i when a grey value's bit c is set. -/
def subtractBit (v : Byte) (c : Bool) (i : Nat) : Byte := if c then v - (1#8 <<< i) else v

/-- Subtracting a bit that is set clears it and borrows from no other. -/
theorem subtractBit_getLsbD {v : Byte} {i : Nat} (c : Bool) (hi : v.getLsbD i = true) {j : Nat}
    (hj : j < 8) : (subtractBit v c i).getLsbD j = if i = j then !c else v.getLsbD j := by
  have hand : (v &&& ~~~(1#8 <<< i)) &&& 1#8 <<< i = 0#8 := by
    rw [BitVec.and_assoc, BitVec.not_and_self]
    exact BitVec.and_zero
  have hsplit : (v &&& ~~~(1#8 <<< i)) + 1#8 <<< i = v := by
    rw [BitVec.add_eq_or_of_and_eq_zero _ _ hand]
    refine BitVec.eq_of_getLsbD_eq fun b hb => ?_
    rw [BitVec.getLsbD_or, BitVec.getLsbD_and, BitVec.getLsbD_not, getLsbD_one_shiftLeft i b hb]
    by_cases h : i = b
    · simp [← h, hi]
    · simp [h, hb]
  cases c with
  | false =>
    by_cases h : i = j
    · simp [subtractBit, ← h, hi]
    · simp [subtractBit, h]
  | true =>
    rw [subtractBit, if_pos rfl, sub_eq_of_eq_add hsplit.symm, BitVec.getLsbD_and,
      BitVec.getLsbD_not, getLsbD_one_shiftLeft i j hj]
    by_cases h : i = j <;> simp [h, hj]

/-- Bits subtracted one after the other from a byte that has them all set: each is cleared by its own
step, and the other bits stay. -/
theorem foldl_subtractBit_getLsbD (steps : List (Bool × Nat)) (v : Byte)
    (hdistinct : (steps.map Prod.snd).Nodup) (hset : ∀ p ∈ steps, v.getLsbD p.2 = true) :
    (∀ p ∈ steps, (steps.foldl (fun v p => subtractBit v p.1 p.2) v).getLsbD p.2 = !p.1) ∧
    (∀ j, j < 8 → j ∉ steps.map Prod.snd →
      (steps.foldl (fun v p => subtractBit v p.1 p.2) v).getLsbD j = v.getLsbD j) := by
  induction steps generalizing v with
  | nil => simp
  | cons p steps ih =>
    rw [List.map_cons, List.nodup_cons] at hdistinct
    obtain ⟨hp, hdistinct⟩ := hdistinct
    rw [List.forall_mem_cons] at hset
    obtain ⟨hset, hrest⟩ := hset
    have hlt {i : Nat} (h : v.getLsbD i = true) : i < 8 := BitVec.lt_of_getLsbD h
    obtain ⟨hcleared, hkept⟩ := ih (subtractBit v p.1 p.2) hdistinct fun q hq => by
      have hne : p.2 ≠ q.2 := fun h => hp (h ▸ List.mem_map_of_mem hq)
      rw [subtractBit_getLsbD p.1 hset (hlt (hrest q hq)), if_neg hne, hrest q hq]
    rw [List.foldl_cons]
    refine ⟨List.forall_mem_cons.mpr ⟨?_, hcleared⟩, fun j hj hmem => ?_⟩
    · rw [hkept p.2 (hlt hset) hp, subtractBit_getLsbD p.1 hset (hlt hset), if_pos rfl]
    · rw [List.map_cons, List.mem_cons, not_or] at hmem
      rw [hkept j hj hmem.2, subtractBit_getLsbD p.1 hset hj, if_neg (Ne.symm hmem.1)]

/-- R187's eight subtractions: the bit and the place of each, in order. -/
def pairSteps (top bot : Byte) : List (Bool × Nat) :=
  [(top.getLsbD 4, 0), (bot.getLsbD 4, 4), (top.getLsbD 5, 1), (bot.getLsbD 5, 5),
   (top.getLsbD 6, 2), (bot.getLsbD 6, 6), (top.getLsbD 7, 3), (bot.getLsbD 7, 7)]

theorem packPair_eq_foldl (top bot : Byte) :
    packPair top bot = (pairSteps top bot).foldl (fun v p => subtractBit v p.1 p.2) 0xFF#8 := rfl

/-- The low nibble is the inverted high nibble of the top grey, the high one that of the bottom. -/
theorem packPair_getLsbD (top bot : Byte) {i : Nat} (hi : i < 4) :
    (packPair top bot).getLsbD i = !top.getLsbD (4 + i) ∧
      (packPair top bot).getLsbD (4 + i) = !bot.getLsbD (4 + i) := by
  have hdistinct : ((pairSteps top bot).map Prod.snd).Nodup := by
    simp [pairSteps]
  have hset : ∀ p ∈ pairSteps top bot, (0xFF#8).getLsbD p.2 = true := by
    simp [pairSteps]
  have hmem : (top.getLsbD (4 + i), i) ∈ pairSteps top bot ∧
      (bot.getLsbD (4 + i), 4 + i) ∈ pairSteps top bot := by
    interval_cases i <;> simp [pairSteps]
  have hcleared := (foldl_subtractBit_getLsbD _ _ hdistinct hset).1
  rw [packPair_eq_foldl]
  exact ⟨hcleared _ hmem.1, hcleared _ hmem.2⟩

theorem packPair_low_nibble (top bot : Byte) :
    (packPair top bot).extractLsb' 0 4 = ~~~(top.extractLsb' 4 4) :=
  BitVec.eq_of_getLsbD_eq fun i hi => by simpa [hi] using (packPair_getLsbD top bot hi).1

theorem packPair_high_nibble (top bot : Byte) :
    (packPair top bot).extractLsb' 4 4 = ~~~(bot.extractLsb' 4 4) :=
  BitVec.eq_of_getLsbD_eq fun i hi => by simpa [hi] using (packPair_getLsbD top bot hi).2

theorem packGray_eq_not (g : Byte) : packGray g = ~~~g := BitVec.allOnes_sub_eq_not g

/-- A field shifted above a narrower one: the two numbers side by side. -/
theorem toNat_shiftLeft_or {w n : Nat} (a b : BitVec w) (hb : b.toNat < 2 ^ n)
    (ha : a.toNat * 2 ^ n < 2 ^ w) : (a <<< n ||| b).toNat = a.toNat * 2 ^ n + b.toNat := by
  rw [BitVec.toNat_or, BitVec.toNat_shiftLeft, Nat.shiftLeft_eq, Nat.mod_eq_of_lt ha,
    ← Nat.shiftLeft_eq, Nat.shiftLeft_add_eq_or_of_lt hb]

/-- A channel's high bits in a 16-bit lane. -/
theorem toNat_setWidth_shiftRight (c : Byte) (n : Nat) :
    ((c >>> n).setWidth 16).toNat = c.toNat / 2 ^ n := by
  rw [BitVec.toNat_setWidth, BitVec.toNat_ushiftRight, Nat.shiftRight_eq_div_pow]
  exact Nat.mod_eq_of_lt ((Nat.div_le_self _ _).trans_lt (c.isLt.trans (by decide)))

theorem toNat_setWidth_div_16 (c : Byte) : ((c / 16#8).setWidth 16).toNat = c.toNat / 16 := by
  rw [BitVec.toNat_setWidth, BitVec.toNat_udiv]
  exact Nat.mod_eq_of_lt ((Nat.div_le_self _ _).trans_lt (c.isLt.trans (by decide)))

/-- R191's value in integers. -/
theorem packRgb565_toNat (c : Color) :
    (packRgb565 c).toNat = c.r.toNat / 8 * 2048 + c.g.toNat / 4 * 32 + c.b.toNat / 8 := by
  have hr := toNat_setWidth_shiftRight c.r 3
  have hg := toNat_setWidth_shiftRight c.g 2
  have hb := toNat_setWidth_shiftRight c.b 3
  have hgb : ((c.g >>> 2).setWidth 16 <<< 5 ||| (c.b >>> 3).setWidth 16).toNat =
      c.g.toNat / 4 * 32 + c.b.toNat / 8 := by
    rw [toNat_shiftLeft_or] <;> omega
  rw [packRgb565, BitVec.or_assoc, toNat_shiftLeft_or] <;> omega

/-- R192's value in integers. -/
theorem packArgb4444_toNat (c : Color) :
    (packArgb4444 c).toNat =
      c.a.toNat / 16 * 4096 + c.r.toNat / 16 * 256 + c.g.toNat / 16 * 16 + c.b.toNat / 16 := by
  have ha := toNat_setWidth_div_16 c.a
  have hr := toNat_setWidth_div_16 c.r
  have hg := toNat_setWidth_div_16 c.g
  have hb := toNat_setWidth_div_16 c.b
  have hgb : ((c.g / 16#8).setWidth 16 <<< 4 ||| (c.b / 16#8).setWidth 16).toNat =
      c.g.toNat / 16 * 16 + c.b.toNat / 16 := by
    rw [toNat_shiftLeft_or] <;> omega
  have hrgb : ((c.r / 16#8).setWidth 16 <<< 8 |||
      ((c.g / 16#8).setWidth 16 <<< 4 ||| (c.b / 16#8).setWidth 16)).toNat =
      c.r.toNat / 16 * 256 + c.g.toNat / 16 * 16 + c.b.toNat / 16 := by
    rw [toNat_shiftLeft_or] <;> omega
  rw [packArgb4444, BitVec.or_assoc, BitVec.or_assoc, toNat_shiftLeft_or] <;> omega

/-- Bits [s + n - 1:s] of a value are a lane in integers. -/
theorem extractLsb'_eq_iff {w m n : Nat} (v : BitVec w) (c : BitVec m) (s t : Nat) :
    v.extractLsb' s n = c.extractLsb' t n ↔
      v.toNat / 2 ^ s % 2 ^ n = c.toNat / 2 ^ t % 2 ^ n := by
  rw [← BitVec.toNat_inj, BitVec.extractLsb'_toNat, BitVec.extractLsb'_toNat,
    Nat.shiftRight_eq_div_pow, Nat.shiftRight_eq_div_pow]

/-- R187's byte in the form R188 gives it. -/
theorem packPair_eq_not (top bot : Byte) :
    packPair top bot = ~~~((bot &&& 0xF0#8) ||| (top >>> 4)) := by
  refine BitVec.eq_of_getLsbD_eq fun j hj => ?_
  by_cases h : j < 4
  · rw [(packPair_getLsbD top bot h).1]
    interval_cases j <;> simp
  · obtain ⟨i, rfl⟩ := Nat.exists_eq_add_of_le (Nat.le_of_not_lt h)
    rw [(packPair_getLsbD top bot (by omega)).2]
    have hi : i < 4 := by omega
    interval_cases i <;> simp

/-- A 16-bit value low byte first, in integers (R193). -/
theorem lowHigh_eq_ofNat (v : BitVec 16) :
    lowHigh v = [BitVec.ofNat 8 (v.toNat % 256), BitVec.ofNat 8 (v.toNat / 256)] := by
  refine List.map_injective_iff.mpr (fun a b h => BitVec.eq_of_toNat_eq h) ((lowHigh_toNat v).trans ?_)
  have hv : v.toNat / 256 < 256 := by omega
  simp [Nat.mod_eq_of_lt hv]

/-! ### The obligations about the packed lanes -/

/-- Settles O35: the predicate names no alpha. -/
theorem onPredicate : Obligations.OnPredicate := by
  intro c
  refine ⟨?_, ?_, fun mono a => rfl⟩
  · simp [pixelOn]
  · simp [pixelOn, and_assoc]

/-- Settles O41: a band's and a pair's byte bit by bit, a 16-bit value by its lanes in integers. -/
theorem packedLanes : Obligations.PackedLanes := by
  refine ⟨fun mono cs z hz => ?_, fun top bot => ?_, packGray_eq_not, fun c => ?_, fun c => ?_,
    fun v => rfl⟩
  · rw [packBand_getLsbD mono cs 0 z hz, Nat.sub_zero]
    cases cs[z]? <;> simp
  · exact ⟨packPair_low_nibble top bot, packPair_high_nibble top bot,
      packPair_high_nibble top 255#8⟩
  · simp only [extractLsb'_eq_iff, packRgb565_toNat]
    omega
  · simp only [extractLsb'_eq_iff, packArgb4444_toNat]
    omega

/-- Settles O42: H = 8q + n puts the last band's rows at n - 1 down to 0, and H = 2q + 1 the last pair's
top at 0. -/
theorem halfTurnPartialUnits : Obligations.HalfTurnPartialUnits := by
  intro L x hx hh
  have hw : 0 < L.w.toNat := Nat.zero_lt_of_lt hx
  have hdiv (d : Nat) : (L.w.toNat * d + x) / L.w.toNat = d := by
    rw [Nat.mul_add_div hw, Nat.div_eq_of_lt hx, Nat.add_zero]
  have hmod (d : Nat) : (L.w.toNat * d + x) % L.w.toNat = x := by
    rw [Nat.mul_add_mod, Nat.mod_eq_of_lt hx]
  refine ⟨by rw [phys_half_turn, Nat.sub_zero], fun n hn hpos => ⟨?_, ?_, ?_⟩, fun hodd => ⟨?_, ?_⟩⟩
  · have hceil : ceilDiv L.h.toNat 8 = L.h.toNat / 8 + 1 := by rw [ceilDiv]; omega
    rw [unitCount, hceil, Nat.mul_succ]
  · have hrows : min 8 (L.h.toNat - 8 * (L.h.toNat / 8)) = n := by omega
    rw [unitCoords, unitLogical_enc1Bit, hdiv, hmod, hrows, List.map_map]
    refine List.map_congr_left fun z _ => ?_
    have hrow : L.h.toNat - 1 - (8 * (L.h.toNat / 8) + z) = n - 1 - z := by omega
    simp only [Function.comp_apply, readOrient, phys_half_turn, coordOf, hrow]
  · intro mono cs z hlen hz
    by_cases hz8 : z < 8
    · rw [packBand_getLsbD mono cs 0 z hz8, Nat.sub_zero, List.getElem?_eq_none (hlen ▸ hz)]
      simp
    · exact BitVec.getLsbD_of_ge _ _ (Nat.le_of_not_lt hz8)
  · have hceil : ceilDiv L.h.toNat 2 = L.h.toNat / 2 + 1 := by rw [ceilDiv]; omega
    rw [unitCount, hceil, Nat.mul_succ]
  · have hbot : ¬ 2 * (L.h.toNat / 2) + 1 < L.h.toNat := by omega
    have hrow : L.h.toNat - 1 - 2 * (L.h.toNat / 2) = 0 := by omega
    simp only [unitCoords, unitLogical, hdiv, hmod, hbot, if_false, List.map_cons, List.map_nil,
      readOrient, phys_half_turn, coordOf, hrow]

/-! ### A session operation run alone (R180, R194; log entries 4, 9 and 14) -/

section

variable {op : SessionOp} {f : CfgFields} {s t u : State} {cs : List Color}

theorem exec_instr (op : SessionOp) (f : CfgFields) (s : State) :
    exec (op.instr f) s = runOperation op f s := by
  cases op <;> rfl

/-- With every read answered, the operation returns the unit's bytes. -/
theorem exec_instr_of_colors (hk : s.k.toNat < unitCount op s.L)
    (h : s.readAll (unitCoords op f.orient s.L s.k.toNat) = .colors cs t) :
    exec (op.instr f) s = .next { t with unitBytes := packUnit op f.mono cs } := by
  rw [exec_instr, runOperation, if_pos hk, State.unitFunction, h]

/-- The first read that fails raises SourceUnavailable, and no later one is issued. -/
theorem exec_instr_of_fail (hk : s.k.toNat < unitCount op s.L) {before after : List Coord}
    {x y : Half} (hcoords : unitCoords op f.orient s.L s.k.toNat = before ++ (x, y) :: after)
    (hbefore : s.readAll before = .colors cs u) (hfail : u.sourceAnswer x y = .fail) :
    exec (op.instr f) s = .next ((u.sendRead x y).raise (.sourceUnavailable x y)) := by
  rw [exec_instr, runOperation, if_pos hk, State.unitFunction, hcoords,
    readAll_fail _ _ _ _ _ _ _ hbefore hfail]

/-- The state a failed read leaves, by what the reads before it changed (R243, R244). -/
theorem raise_sendRead_eq {before : List Coord} (x y : Half)
    (hbefore : s.readAll before = .colors cs u) :
    (u.sendRead x y).raise (.sourceUnavailable x y) =
      { s with phase := .error, err := 2#2, errxy := errxyOf x y,
               reads := s.reads ++ before ++ [(x, y)],
               pixels := u.pixels.eraseP (PixelEntry.isAt x y) } := by
  obtain ⟨_, hu⟩ := readAll_colors _ _ _ _ hbefore
  generalize u.pixels = px at hu
  subst hu
  rfl

theorem readAll_singleton {p : Coord} {c : Color} (h : s.sourceAnswer p.1 p.2 = .ok c) :
    s.readAll [p] = .colors [c] (s.sendRead p.1 p.2) := by
  simp [State.readAll, h]

/-- A unit of one pixel: its read is answered and its colour packed, or it fails and raises. -/
theorem exec_instr_of_one_read {p : Coord} (hk : s.k.toNat < unitCount op s.L)
    (hcoords : unitCoords op f.orient s.L s.k.toNat = [p]) :
    (∀ c, s.sourceAnswer p.1 p.2 = .ok c →
      exec (op.instr f) s =
        .next { s.sendRead p.1 p.2 with unitBytes := packUnit op f.mono [c] }) ∧
    (s.sourceAnswer p.1 p.2 = .fail →
      exec (op.instr f) s =
        .next { s.sendRead p.1 p.2 with
                  phase := .error, err := 2#2, errxy := errxyOf p.1 p.2 }) :=
  ⟨fun _ h => exec_instr_of_colors hk (hcoords ▸ readAll_singleton h),
    fun h => exec_instr_of_fail (before := []) hk hcoords rfl h⟩

end

/-! ### The physical coordinates of a unit, axis by axis (R181, R185, R187, R189, R190) -/

theorem coordOf_phys (orient : BitVec 2) (L : Latched) (x y : Nat) :
    coordOf (phys orient L x y) =
      if orient = 1#2 then
        (BitVec.ofNat 16 (L.w.toNat - 1 - x), BitVec.ofNat 16 (L.h.toNat - 1 - y))
      else (BitVec.ofNat 16 x, BitVec.ofNat 16 y) := by
  unfold phys
  split <;> rfl

/-! ### The obligations about a unit function -/

/-- Settles O19: the reads before the failed one changed only the read log and the answers laid
down. -/
theorem firstFailedReadEndsTheUnit : Obligations.FirstFailedReadEndsTheUnit := by
  intro s u op before after x y cs hop hk hcoords hbefore hfail
  rw [exec_stepUnit hop hk, State.unitStep, hcoords, readAll_fail _ _ _ _ _ _ _ hbefore hfail]
  exact congrArg _ (raise_sendRead_eq x y hbefore)

/-- Settles O40: the instruction is its operation's, and the operation asks for a unit first. -/
theorem sessionOperationRaisesOnFailedRead : Obligations.SessionOperationRaisesOnFailedRead := by
  intro op i f s u before after x y cs hi hop
  have hfields : i.fields = .cfgw f := by
    simp only [List.mem_cons, List.not_mem_nil, or_false] at hi
    rcases hi with rfl | rfl | rfl | rfl | rfl | rfl <;> rfl
  obtain rfl := (operationOf_eq_some_iff hfields op).mp hop
  refine ⟨fun hk hcoords hbefore hfail => ?_, fun hk => ?_⟩
  · exact (exec_instr_of_fail hk hcoords hbefore hfail).trans
      (congrArg _ (raise_sendRead_eq x y hbefore))
  · rw [exec_instr, runOperation, if_neg (Nat.not_lt.mpr hk)]

/-- Settles O38: each of the two operations reads one pixel. -/
theorem eightBitUnitIsOnePixel : Obligations.EightBitUnitIsOnePixel := by
  intro f s w h x y row col hk
  have hrow : unitCoords .enc8Bit f.orient s.L s.k.toNat = [row] :=
    congrArg (fun p => [p]) (coordOf_phys f.orient s.L x y)
  obtain ⟨hok, hfail⟩ := exec_instr_of_one_read (op := .enc8Bit) hk hrow
  obtain ⟨hokCol, hfailCol⟩ := exec_instr_of_one_read (op := .enc8BitCol) (f := f) (p := col) hk rfl
  exact ⟨hok, hfail, hokCol, hfailCol⟩

/-- Settles O39: each operation reads one pixel, and its value's bytes are those of the integer. -/
theorem sixteenBitUnitIsOnePixel : Obligations.SixteenBitUnitIsOnePixel := by
  intro f s w h x y at_ rgb argb bytes failed hk
  have hcoords : [coordOf (phys f.orient s.L x y)] = [at_] :=
    congrArg (fun p => [p]) (coordOf_phys f.orient s.L x y)
  obtain ⟨hokRgb, hfailRgb⟩ := exec_instr_of_one_read (op := .encRgb565) hk hcoords
  obtain ⟨hokArgb, hfailArgb⟩ := exec_instr_of_one_read (op := .encArgb4444) hk hcoords
  have hrgb (c : Color) : packUnit .encRgb565 f.mono [c] = bytes (rgb c) := by
    rw [packUnit, List.flatMap_singleton, lowHigh_eq_ofNat, packRgb565_toNat]
  have hargb (c : Color) : packUnit .encArgb4444 f.mono [c] = bytes (argb c) := by
    rw [packUnit, List.flatMap_singleton, lowHigh_eq_ofNat, packArgb4444_toNat]
  refine ⟨fun c hc => ⟨?_, ?_⟩, fun hc => ⟨hfailRgb hc, hfailArgb hc⟩⟩
  · rw [← hrgb]
    exact hokRgb c hc
  · rw [← hargb]
    exact hokArgb c hc

/-- Settles O37: a pair with a bottom is two reads, one without is one. -/
theorem fourBitUnitIsItsPair : Obligations.FourBitUnitIsItsPair := by
  intro f s w h x y at_ s1 s2 byte hk
  have hat (r : Nat) : coordOf (phys f.orient s.L x r) = at_ r := coordOf_phys f.orient s.L x r
  have hbyte (top bot : Byte) : packPair top bot = byte top bot := packPair_eq_not top bot
  have hpair (hbot : y + 1 < h) :
      unitCoords .enc4Bit f.orient s.L s.k.toNat = [at_ y] ++ at_ (y + 1) :: [] := by
    rw [unitCoords, unitLogical, if_pos hbot, List.map_cons, List.map_singleton, ← hat, ← hat]
    rfl
  have hsingle (hbot : h ≤ y + 1) : unitCoords .enc4Bit f.orient s.L s.k.toNat = [at_ y] := by
    rw [unitCoords, unitLogical, if_neg (Nat.not_lt.mpr hbot), List.map_singleton, ← hat]
    rfl
  refine ⟨fun top bot htop hbot hb => ?_, fun top htop hbot => ⟨?_, ?_⟩, fun htop => ?_,
    fun top htop hbot hb => ?_⟩
  · have hreads : s.readAll (unitCoords .enc4Bit f.orient s.L s.k.toNat) = .colors [top, bot] s2 := by
      rw [hpair hbot, readAll_append, readAll_singleton htop]
      dsimp only
      rw [readAll_singleton hb]
      rfl
    rw [← hbyte]
    exact exec_instr_of_colors (op := .enc4Bit) hk hreads
  · rw [← hbyte]
    exact (exec_instr_of_one_read (op := .enc4Bit) hk (hsingle hbot)).1 top htop
  · rw [← hbyte]
    exact packPair_high_nibble (Config.gray top) 255#8
  · by_cases hbot : y + 1 < h
    · exact exec_instr_of_fail (op := .enc4Bit) (before := []) hk (hpair hbot) rfl htop
    · exact (exec_instr_of_one_read (op := .enc4Bit) hk (hsingle (Nat.le_of_not_lt hbot))).2 htop
  · exact exec_instr_of_fail (op := .enc4Bit) hk (hpair hbot) (readAll_singleton htop) hb

/-- Settles O36: the band's coordinates are the rows it has in the canvas, and bit z is the colour of
the z-th of them. -/
theorem oneBitUnitIsItsBand : Obligations.OneBitUnitIsItsBand := by
  intro f s w h x y0 rows coords hk
  have hcoords : unitCoords .enc1Bit f.orient s.L s.k.toNat = coords := by
    rw [unitCoords, unitLogical, List.map_map]
    exact List.map_congr_left fun z _ => coordOf_phys f.orient s.L x (y0 + z)
  have hrows : rows = List.range (min 8 (h - y0)) := filter_range_add_lt 8 y0 h
  have hlen : coords.length = min 8 (h - y0) := by
    rw [List.length_map, hrows, List.length_range]
  refine ⟨fun cs t hread => ?_, fun before after px py cs u hsplit hbefore hfail =>
    exec_instr_of_fail (op := .enc1Bit) hk (hcoords.trans hsplit) hbefore hfail⟩
  obtain ⟨hcs, _⟩ := readAll_colors _ _ _ _ hread
  rw [← hcoords] at hread
  refine ⟨packBand f.mono 0 cs, exec_instr_of_colors (op := .enc1Bit) hk hread, fun z hz => ?_⟩
  rw [packBand_getLsbD f.mono cs 0 z hz, Nat.sub_zero]
  refine ⟨fun hrow => ?_, fun hrow => ?_⟩
  · have hlt : z < cs.length := by omega
    exact ⟨cs[z], List.getElem?_eq_getElem hlt, by simp [hlt]⟩
  · rw [List.getElem?_eq_none (by omega)]
    rfl

end Sys2Proof.Machine
end

section
/-! PROOFS. Family 43_host_interface: what an HBUS word decodes to at each offset, and what each
register transaction stores or answers. -/

namespace Sys2Proof

/-! ### The decoding of an HBUS word at each offset (R220) -/

/-- The bytes of an HBUS word made of fields decode by the fields. -/
theorem decode_hbusWord (c : SelectCtx) (we : BitVec 1) (addr : Byte) (data : Word) :
    decode c (hbusBytes (hbusWord we addr data)) = .ok (decodeHbus we addr data) := by
  rw [decode_hbusBytes, hbusWord_we, hbusWord_addr, hbusWord_data]

theorem decodeHbus_cfg (we : BitVec 1) (data : Word) :
    decodeHbus we 0x00#8 data = if we = 1#1 then .wrCfg data else .rdCfg := rfl

theorem decodeHbus_dim (we : BitVec 1) (data : Word) :
    decodeHbus we 0x04#8 data = if we = 1#1 then .wrDim data else .rdDim := rfl

theorem decodeHbus_ctrl (we : BitVec 1) (data : Word) :
    decodeHbus we 0x08#8 data =
      if we = 1#1 then (if data.getLsbD 0 = true then .start data else .wrCtrl data)
      else .rdCtrl := rfl

theorem decodeHbus_status (we : BitVec 1) (data : Word) :
    decodeHbus we 0x0C#8 data = if we = 1#1 then .wrStatus data else .rdStatus := rfl

theorem decodeHbus_errxy (we : BitVec 1) (data : Word) :
    decodeHbus we 0x10#8 data = if we = 1#1 then .wrErrxy data else .rdErrxy := rfl

theorem decodeHbus_of_unmapped (we : BitVec 1) {addr : Byte} (data : Word)
    (h : addr ∉ mappedOffsets) :
    decodeHbus we addr data = if we = 1#1 then .wrNone addr data else .rdNone addr := by
  simp only [mappedOffsets, List.mem_cons, List.not_mem_nil, or_false, not_or] at h
  obtain ⟨hcfg, hdim, hctrl, hstatus, herrxy⟩ := h
  simp only [decodeHbus, hcfg, hdim, hctrl, hstatus, herrxy, if_false]

/-- Every register lies at a multiple of four. -/
theorem aligned_of_mem_mappedOffsets : ∀ addr ∈ mappedOffsets, addr.extractLsb' 0 2 = 0#2 := by
  decide

end Sys2Proof

namespace Sys2Proof.Machine

/-! ### The registers under the invariant (R21, R24, R25) -/

/-- CFG's reserved byte is the one its mask keeps. -/
theorem State.Inv.extractLsb'_cfg_reserved {s : State} (h : s.Inv) :
    s.cfg.extractLsb' 8 8 = 0#8 := by
  have hmask : s.cfg.extractLsb' 8 8 = (s.cfg &&& 0x0000FF00#32).extractLsb' 8 8 := by
    apply BitVec.eq_of_getLsbD_eq
    intro i hi
    interval_cases i <;> simp
  rw [hmask, h.cfgReserved]
  rfl

/-- During a session STATUS reports STATE 1 and no error (R230). -/
theorem State.Inv.statusWord_of_busy {s : State} (h : s.Inv) (hb : s.phase.busy = true) :
    s.statusWord = 1#32 := by
  have hp : s.phase ≠ .error := fun he => by simp [he, Phase.busy] at hb
  have hstate : stateCode s.phase = 1#2 := by
    rcases (busy_eq_true_iff _).mp hb with hp | hp | hp <;> rw [hp] <;> rfl
  rw [State.statusWord, h.cause_eq_zero hp, h.err_eq_zero hp, hstate]
  rfl

/-! ### What a write of CTRL and a read of the report do (R223, R230, R231) -/

theorem exec_wrCtrl (data : Word) (s : State) :
    exec (.wrCtrl data) s = .next (if data.getLsbD 0 = true then s.start else s) := rfl

theorem exec_rdStatus (s : State) : exec .rdStatus s = .next (s.respond s.statusWord) := rfl

theorem exec_rdErrxy (s : State) : exec .rdErrxy s = .next (s.respond s.errxy) := rfl

/-- A read's answer, by the value of the word it answers (R73). -/
theorem next_respond_of_eq (s : State) {v w : Word} (h : v = w) :
    (.next (s.respond v) : Answer) = .next { s with rdata := some w } := by
  rw [h]
  rfl

/-! ### The obligations -/

/-- Settles O9: a misaligned offset is unmapped, and the decoder selects by WE at each offset. -/
theorem hostDecodeIsTotal : Obligations.HostDecodeIsTotal := by
  intro c w we addr data got
  have hgot : got = .ok (decodeHbus we addr data) := decode_hbusBytes c w
  rw [hgot]
  refine ⟨fun h => ?_, fun h => ?_, fun h => ?_, fun h => ?_, fun h => ?_, fun h => ?_⟩
  · have hunmapped : addr ∉ mappedOffsets :=
      h.elim (fun hmis hmem => hmis (aligned_of_mem_mappedOffsets addr hmem)) id
    rw [decodeHbus_of_unmapped we data hunmapped, apply_ite Decoded.ok]
  · rw [h, decodeHbus_cfg, apply_ite Decoded.ok]
  · rw [h, decodeHbus_dim, apply_ite Decoded.ok]
  · rw [h, decodeHbus_ctrl, apply_ite Decoded.ok, apply_ite Decoded.ok]
  · rw [h, decodeHbus_status, apply_ite Decoded.ok]
  · rw [h, decodeHbus_errxy, apply_ite Decoded.ok]

/-- Settles O3: the mask is CFG's writable bits, in the example too. -/
theorem writeCfgStoresWritableBits : Obligations.WriteCfgStoresWritableBits :=
  fun c data _ => ⟨decode_hbusWord c 1#1 0x00#8 data, rfl, rfl⟩

/-- Settles O4: DIM is stored whole, and its halves are what START latches. -/
theorem writeDimStoresWidthAndHeight : Obligations.WriteDimStoresWidthAndHeight :=
  fun c data _ => ⟨decode_hbusWord c 1#1 0x04#8 data, rfl, rfl, rfl, rfl, rfl⟩

/-- Settles O5: DATA[0] selects between START and nothing, in the decoder and in the write, and
START does not look at DATA. -/
theorem writeCtrlActsOnBitZeroOnly : Obligations.WriteCtrlActsOnBitZeroOnly := by
  intro c data s
  rw [decode_hbusWord, decodeHbus_ctrl, if_pos rfl, exec_wrCtrl, exec_start, exec_start]
  refine ⟨fun hbit => ?_, fun hbit => ⟨?_, ?_, rfl, fun hb => ?_, fun hb hv => ?_⟩⟩
  · rw [hbit]
    exact ⟨rfl, rfl⟩
  · rw [if_pos hbit]
  · rw [if_pos hbit]
  · rw [start_of_busy hb]
  · exact ⟨_, rfl, by simp [start_of_valid hb hv, State.statusWord, stateCode]⟩

/-- Settles O6: each of these writes is its own row, without an effect. -/
theorem ignoredWritesChangeNothing : Obligations.IgnoredWritesChangeNothing :=
  fun c addr data _ =>
    ⟨decode_hbusWord c 1#1 0x0C#8 data, rfl, decode_hbusWord c 1#1 0x10#8 data, rfl,
      fun h => (decode_hbusWord c 1#1 addr data).trans
        (congrArg Decoded.ok (decodeHbus_of_unmapped 1#1 data h)),
      rfl⟩

/-- Settles O7: each read is its own row and answers the register or 0, and the invariant holds
CFG's reserved byte at 0. -/
theorem configurationReadsAnswerTheRegister : Obligations.ConfigurationReadsAnswerTheRegister :=
  fun c addr data _ =>
    ⟨decode_hbusWord c 0#1 0x00#8 data, rfl, State.Inv.extractLsb'_cfg_reserved, rfl,
      decode_hbusWord c 0#1 0x04#8 data, rfl, rfl,
      decode_hbusWord c 0#1 0x08#8 data, rfl,
      fun h => (decode_hbusWord c 0#1 addr data).trans
        (congrArg Decoded.ok (decodeHbus_of_unmapped 0#1 data h)),
      rfl⟩

/-- Settles O8: STATUS is its three fields, phase by phase, and the invariant gives its value
during a session and ERRXY's value outside SourceUnavailable. -/
theorem statusReadsAnswerTheReport : Obligations.StatusReadsAnswerTheReport := by
  intro c data s
  simp only [exec_rdStatus, exec_rdErrxy]
  refine ⟨decode_hbusWord c 0#1 0x0C#8 data, next_respond_of_eq s ?_,
    fun hinv hb => next_respond_of_eq s (hinv.statusWord_of_busy hb), fun u hu => ?_,
    decode_hbusWord c 0#1 0x10#8 data, rfl,
    fun hinv herr => next_respond_of_eq s (hinv.errxyCleared herr), fun u hu => ?_⟩
  · rw [State.statusWord]
    cases s.phase <;> rfl
  · cases hu
    simp [State.statusWord, stateCode]
  · cases hu
    rfl

end Sys2Proof.Machine
end

section
/-! PROOFS. Family 60_exceptions: what can leave an error, and that under the invariant no transition
stops the block. -/

namespace Sys2Proof.Machine

/-! ### A host transaction, by its START (R150, R252) -/

/-- What a host transaction can do: write CFG, DIM or RDATA at most, or START. -/
theorem step_host_cases {s : State} {w : BitVec 41} (hm : s.nextMove = .host w) :
    (∃ cfg dim rdata, step s = .next (s.withHostSide cfg dim rdata s.schedule.tail)) ∨
    (∃ data, decode s.selectCtx (s.fetchBytes s.nextMove) = .ok (.start data) ∧
      step s = .next s.popMove.start) := by
  obtain ⟨t, ht, hcases⟩ := exec_decodeHbus_cases (w.extractLsb' 40 1) (w.extractLsb' 32 8)
    (w.extractLsb' 0 32) s.popMove
  rw [step_host s w hm, ht, hm]
  rcases hcases with rfl | ⟨v, rfl⟩ | ⟨_, rfl⟩ | ⟨_, rfl⟩ | ⟨hstart, rfl⟩
  · exact .inl ⟨_, _, _, rfl⟩
  · exact .inl ⟨_, _, _, rfl⟩
  · exact .inl ⟨_, _, _, rfl⟩
  · exact .inl ⟨_, _, _, rfl⟩
  · exact .inr ⟨_, (decode_hbusBytes s.selectCtx w).trans (congrArg Decoded.ok hstart), rfl⟩

/-! ### The ENGINE's turn -/

/-- Outside a session the ENGINE's turn passes (R28). -/
theorem step_engine_of_not_busy {s : State} (hm : s.nextMove = .engine)
    (hb : s.phase.busy = false) : step s = .next s.popMove := by
  rcases step_engine_cases s hm with ⟨hp, _⟩ | ⟨hp, _⟩ | ⟨hp, _⟩ | ⟨_, e⟩
  · simp [hp, Phase.busy] at hb
  · simp [hp, Phase.busy] at hb
  · simp [hp, Phase.busy] at hb
  · exact e

/-- A session that passed validation has its operation. -/
theorem State.Inv.exists_sessionOp {s : State} (h : s.Inv) (hb : s.phase.busy = true) :
    ∃ op, sessionOp s.L = some op :=
  Option.isSome_iff_exists.mp ((sessionOp_isSome s.L).mpr (h.busyIsValid hb))

/-- Under the invariant the ENGINE's turn does not stop: a BUSY session has its operation, and in
BODY a unit is left. -/
theorem State.Inv.step_engine_next {s : State} (h : s.Inv) (hm : s.nextMove = .engine) :
    ∃ t, step s = .next t := by
  rcases step_engine_cases s hm with ⟨hp, e⟩ | ⟨hp, e⟩ | ⟨_, e⟩ | ⟨_, e⟩
  · obtain ⟨op, hop⟩ := h.exists_sessionOp (by simp [hp, Phase.busy])
    exact ⟨_, e.trans ((execStepHdr_eq_next _ _).mpr ⟨op, hop, rfl⟩)⟩
  · obtain ⟨op, hop⟩ := h.exists_sessionOp (by simp [hp, Phase.busy])
    exact ⟨_, e.trans ((execStepUnit_eq_next _ _).mpr ⟨op, hop, h.bodyHasUnit hp op hop, rfl⟩)⟩
  · exact ⟨_, e⟩
  · exact ⟨_, e⟩

/-! ### The obligations -/

/-- Settles O48: a host transaction other than START writes CFG, DIM and RDATA at most, and the
ENGINE has no step in ERROR. -/
theorem errorStaysUntilStartOrReset : Obligations.ErrorStaysUntilStartOrReset := by
  intro s t hp harch hreset hstart hs
  cases hm : s.nextMove with
  | host w =>
    rcases step_host_cases hm with ⟨cfg, dim, rdata, e⟩ | ⟨data, hd, _⟩
    · cases e.symm.trans hs
      exact ⟨hp, rfl, rfl, rfl, rfl⟩
    · exact absurd hd (hstart data)
  | engine =>
    cases (step_engine_of_not_busy hm (congrArg Phase.busy hp)).symm.trans hs
    exact ⟨hp, rfl, rfl, rfl, rfl⟩
  | reset => exact absurd hm hreset
  | producer w => simp [hm, Move.architectural] at harch
  | operation => simp [hm, Move.architectural] at harch

/-- Settles O51: reset and a host transaction always have a next state, the ENGINE's turn has one
under the invariant, and no unit is driven alone. -/
theorem nothingStopsTheBlock : Obligations.NothingStopsTheBlock := by
  intro s h
  have harch := h.nextMove_architectural
  cases hm : s.nextMove with
  | host w =>
    rcases step_host_cases hm with ⟨_, _, _, e⟩ | ⟨_, _, e⟩
    · exact ⟨_, e⟩
    · exact ⟨_, e⟩
  | engine => exact h.step_engine_next hm
  | reset => exact ⟨s.popMove.resetEvent, by simp [step, hm]⟩
  | producer w => simp [hm, Move.architectural] at harch
  | operation => simp [hm, Move.architectural] at harch

end Sys2Proof.Machine
end

section
/-! PROOFS. Family 70_reset_and_hazards: the reset event, the end of every session, and START straight
after reset. -/

namespace Sys2Proof.Machine

/-! ### The reset event (R260, R261) -/

/-- Reset is one transition, whatever the phase. -/
theorem step_reset {s : State} (hm : s.nextMove = .reset) : step s = .next s.popMove.resetEvent := by
  simp [step, hm]

/-- STATUS reads 0 after reset. -/
@[simp] theorem resetEvent_statusWord (s : State) : s.resetEvent.statusWord = 0#32 := by
  simp [State.statusWord, stateCode]

/-! ### The steps a session has left (R160) -/

/-- From its start a session has N(L) + 2 steps, and no state of it has more. -/
theorem stepsLeft_le (op : SessionOp) (s : State) : stepsLeft op s ≤ unitCount op s.L + 2 := by
  unfold stepsLeft
  cases s.phase <;> simp only <;> omega

section

variable {op : SessionOp} {s t : State}

theorem stepsLeft_of_body (h : s.phase = .body) :
    stepsLeft op s = unitCount op s.L - s.k.toNat + 1 := by
  simp [stepsLeft, h]

theorem stepsLeft_of_fin (h : s.phase = .fin) : stepsLeft op s = 1 := by
  simp [stepsLeft, h]

theorem stepsLeft_of_error (h : s.phase = .error) : stepsLeft op s = 0 := by
  simp [stepsLeft, h]

/-- The session goes on from s to t, or ends there, with fewer steps left. -/
structure State.Advances (op : SessionOp) (s t : State) : Prop where
  notIdle : t.phase ≠ .idle
  fewer : stepsLeft op t < stepsLeft op s

/-- STEP.HDR leaves the units and the flush, or the flush alone. -/
theorem headerStep_advances (hp : s.phase = .hdr) : s.Advances op (s.headerStep op) := by
  rw [headerStep_eq_append]
  by_cases h0 : unitCount op s.L = 0
  · refine ⟨by simp [h0], ?_⟩
    rw [stepsLeft_of_hdr hp, stepsLeft_of_fin (if_pos h0)]
    omega
  · refine ⟨by simp [h0], ?_⟩
    rw [stepsLeft_of_hdr hp, stepsLeft_of_body (if_neg h0)]
    show unitCount op s.L - s.k.toNat + 1 < _
    omega

/-- The cursor's move after a unit leaves one unit less, or the flush alone. -/
theorem advanceUnit_advances (hp : s.phase = .body) (hk : s.k.toNat < unitCount op s.L) :
    s.Advances op (s.advanceUnit op) := by
  have hk1 := cursor_succ s.k op s.L hk
  by_cases hlast : (s.k + 1#32).toNat = unitCount op s.L
  · have hfin : (s.advanceUnit op).phase = .fin := if_pos hlast
    refine ⟨hfin.trans_ne nofun, ?_⟩
    rw [stepsLeft_of_fin hfin, stepsLeft_of_body hp]
    omega
  · have hbody : (s.advanceUnit op).phase = .body := (if_neg hlast).trans hp
    refine ⟨hbody.trans_ne nofun, ?_⟩
    rw [stepsLeft_of_body hbody, stepsLeft_of_body hp]
    show unitCount op s.L - (s.k + 1#32).toNat + 1 < _
    omega

/-- STEP.UNIT moves the cursor on, or ends the session in ERROR. -/
theorem unitStep_advances (hp : s.phase = .body) (hk : s.k.toNat < unitCount op s.L) :
    s.Advances op (s.unitStep op) := by
  obtain ⟨rs, px, ⟨cs, e⟩ | ⟨x, y, e⟩⟩ := unitStep_cases s op <;> rw [e]
  · -- reads and pushes leave the phase, L and the cursor
    have hnext := advanceUnit_advances (op := op)
      (s := ({ s with reads := rs, pixels := px } : State).pushAll (packUnit op s.L.mono cs))
      (by simpa using hp) (by simpa using hk)
    exact ⟨hnext.notIdle, hnext.fewer.trans_eq (by simp [stepsLeft])⟩
  · refine ⟨by simp, ?_⟩
    rw [stepsLeft_of_error rfl, stepsLeft_of_body hp]
    omega

/-- STEP.FIN leaves no step. -/
theorem finStep_advances (hp : s.phase = .fin) :
    s.Advances op { s.finish with phase := .done } := by
  refine ⟨by simp, ?_⟩
  rw [stepsLeft_of_done rfl, stepsLeft_of_fin hp]
  exact Nat.one_pos

/-- The ENGINE's turn in a BUSY session that meets the invariant. -/
theorem State.Inv.engine_advances (h : s.Inv) (hb : s.phase.busy = true) (hnil : s.schedule = [])
    (hop : sessionOp s.L = some op) :
    ∃ i t, i ∈ [Instr.stepHdr, .stepUnit, .stepFin] ∧ step s = exec i s ∧ exec i s = .next t ∧
      s.Advances op t := by
  obtain ⟨hhdr, hbody, hfin⟩ := step_of_busy_phase s hnil
  rcases (busy_eq_true_iff s.phase).mp hb with hp | hp | hp
  · exact ⟨_, _, by simp, hhdr hp, exec_stepHdr hop, headerStep_advances hp⟩
  · have hk := h.bodyHasUnit hp op hop
    exact ⟨_, _, by simp, hbody hp, exec_stepUnit hop hk, unitStep_advances hp hk⟩
  · exact ⟨_, _, by simp, hfin hp, exec_stepFin s, finStep_advances hp⟩

/-- With the ENGINE alone to move, a session that has begun ends within its remaining steps. -/
theorem State.Inv.session_ends {s : State} (h : s.Inv) (hp : s.phase ≠ .idle)
    (hnil : s.schedule = []) (hop : sessionOp s.L = some op) :
    ∃ n t, n ≤ stepsLeft op s ∧ Host.Core.run Sys2Proof.core n s = .next t ∧
      (t.phase = .done ∨ t.phase = .error) := by
  cases hb : s.phase.busy with
  | false =>
    exact ⟨0, s, Nat.zero_le _, run_zero s, ((busy_eq_false_iff s.phase).mp hb).resolve_left hp⟩
  | true =>
    obtain ⟨i, t, hi, hstep, hexec, hidle, hfewer⟩ := h.engine_advances hb hnil hop
    obtain ⟨_, _, hL, _, _, _, hschedule, _⟩ := engineStepFrame i s t hi hexec
    have hnext : step s = .next t := hstep.trans hexec
    have ht : t.Inv := everyTransitionKeepsTheInvariant s t h hnext
    obtain ⟨n, u, hn, hrun, hend⟩ := ht.session_ends hidle (hschedule.trans hnil) (hL ▸ hop)
    exact ⟨n + 1, u, by omega, (run_succ n s t hnext).trans hrun, hend⟩
termination_by stepsLeft op s

end

/-! ### The obligations -/

/-- Settles O54: each engine step of a BUSY session leaves fewer steps, so its run ends, in DONE or in
ERROR. -/
theorem everySessionEnds : Obligations.EverySessionEnds := by
  intro s op h hb hnil hop
  have hidle : s.phase ≠ .idle := fun hp => by simp [hp, Phase.busy] at hb
  exact ⟨stepsLeft_le op s, h.session_ends hidle hnil hop⟩

/-- Settles O2: each piece by its value after the reset event; the phase is then IDLE, where the
ENGINE's turn passes. -/
theorem resetEventRestoresEveryPiece : Obligations.ResetEventRestoresEveryPiece := by
  intro s hm
  exact ⟨_, step_reset hm, rfl, rfl, rfl, rfl, rfl, rfl, rfl, rfl, rfl, rfl, rfl, rfl,
    resetEvent_statusWord _, rfl, step_of_idle_phase _ rfl rfl⟩

/-- Settles O55, the run of START and two engine steps evaluated. -/
theorem startStraightAfterReset : Obligations.StartStraightAfterReset :=
  ⟨by decide, _, rfl, rfl, rfl, rfl⟩

end Sys2Proof.Machine
end
